-- ==== Sys2Proof/Word.lean ====
section
/-! DEFINITION. The words of the machine, named as the spec's glossary names them (00_scope.md R14): a byte is 8 bits, a
double-word 32, a quad-word 64. -/

namespace Sys2Proof

/-- 8 bits, the unit of addressing (R60). -/
abbrev Byte := BitVec 8

/-- A double-word: 32 bits, one instruction word, one vector. -/
abbrev DWord := BitVec 32

/-- A quad-word: 64 bits, the wide instruction and the container of a register. -/
abbrev QWord := BitVec 64

/-- A byte address (R60): the address bus is 32 bits. -/
abbrev Addr := BitVec 32

/-- A register number, the 5-bit fields C, A and B (R20, R107). -/
abbrev RegNum := BitVec 5

/-- An interrupt vector number, 0 to 15 (R94, R72). -/
abbrev VectorNum := BitVec 4

end Sys2Proof
end

