-- ==== Sys2Proof/Config.lean ====
section
/-! DEFINITION. The parameters of 00_scope.md R7, as plain data, and the free values: constants without a body, of which
nothing can be proved, so that a claim holds whatever they are. A parameter that is a function is the choice of one of the
functions the spec names, or of a constant without a body that stands for any other. -/

namespace Sys2Proof

/-- `ENDIAN` (R63): the byte order of data, of vectors and of instruction fetch. -/
inductive Endian where
  | little
  | big
deriving DecidableEq, Repr

/-- `MISALIGNED` (R7, R31, R68): what a misaligned data access or fetch does. -/
inductive Misaligned where
  /-- The access is refused. -/
  | refuse
  /-- The access is done byte by byte, without the alignment test. -/
  | bytewise
deriving DecidableEq, Repr

/-- What an eight-byte access must be a multiple of under `MISALIGNED` = refuse. The spec says two things: 8 (decision D40 and
96_test_vectors_extensions.md), and 4 (R66, R68, R154, R158). Both are modelled (log entry 3). -/
inductive QuadAlignment where
  | four
  | eight
deriving DecidableEq, Repr

/-- `DivZero` (R7, R286): what DIV and MOD do with divisor 0 and with the overflowing quotient. -/
inductive DivZero where
  /-- The instruction is refused. -/
  | refuse
  /-- The result is any value (log entry 7). -/
  | anyValue
deriving DecidableEq, Repr

/-- `MulCarryOut` (R7, R283): what MUL and MLC write to MC. -/
inductive MulCarryOut where
  /-- The default: the high half of the signed product. -/
  | signedHigh
  /-- The high half of the unsigned product, a platform R283 names. -/
  | unsignedHigh
  /-- MC written by MLC only, its signed high half, a platform R283 names. -/
  | mlcOnly
  /-- Any other function of the operands and the carry in, `Config.mulCarryOut` (log entry 12). -/
  | platform
deriving DecidableEq, Repr

/-- `FpNumerics` (R7, R295): none, or a record of functions, `Config.fpItf`, `fpFti`, `fpSqr` and `fpAlu` (log entry 8). -/
inductive FpNumerics where
  /-- Every floating point operation is refused. -/
  | none
  | supplied
deriving DecidableEq, Repr

/-- What lies at an address (R7, R71). -/
inductive Area where
  | memory
  | device
  /-- Neither memory nor a device. -/
  | nothing
deriving DecidableEq, Repr

/-- An entry of `MemMap`: the addresses from `base` up to `base + size`, and what lies there. -/
structure Region where
  base : Nat
  size : Nat
  area : Area
deriving DecidableEq, Repr

/-- A bus transfer as the platform is presented with it (R69, R70, R71): the bytes read, or those written and their values. -/
inductive Transfer where
  | read (a : Addr) (n : Nat)
  | write (a : Addr) (bs : List Byte)
deriving DecidableEq, Repr

/-- `EPC_READ_OFFSET` (R29): what a read of EPC adds to the address of the reading instruction. -/
inductive EpcOffset where
  | zero
  | four
  | eight
deriving DecidableEq, Repr

/-- `EXT_Q`, `EXT_M`, `EXT_F` (R2, R7): which extensions the processor has. -/
structure Extensions where
  /-- `EXT_Q`, the 64-bit extension. -/
  q : Bool
  /-- `EXT_M`, the MUL/DIV extension. -/
  m : Bool
  /-- `EXT_F`, the floating point extension. -/
  f : Bool
deriving DecidableEq, Repr

/-- The base processor, `SRM32` (R4). -/
abbrev Extensions.none : Extensions := { q := false, m := false, f := false }

/-- The processor with every extension, `SRM32+Q+M+F` (R4). -/
abbrev Extensions.all : Extensions := { q := true, m := true, f := true }

/-- The parameters of R7; XLEN follows from `ext` (R240) and IrqOracle is `State.requests`. A machine's parameters never change: no operation writes them. -/
structure Config where
  ext : Extensions
  endian : Endian
  /-- `RST_VEC`, the address of the reset vector (R73). -/
  rstVec : Addr
  epcOffset : EpcOffset
  misaligned : Misaligned
  quadAlignment : QuadAlignment
  divZero : DivZero
  mulCarry : MulCarryOut
  fp : FpNumerics
  /-- `MemMap` (R71): the first region that holds an address says what lies there; an address in none is plain memory. -/
  memMap : List Region
deriving DecidableEq, Repr

/-- The defaults of R7's table. -/
def Config.specDefault : Config :=
  { ext := Extensions.none, endian := .little, rstVec := 0x0FFFFFFC#32, epcOffset := .zero, misaligned := .refuse,
    quadAlignment := .eight, divZero := .refuse, mulCarry := .signedHigh, fp := .none, memMap := [] }

/-- The parameters of `State.reset`: R7's defaults, but every extension is present, a misaligned access is done byte by byte, a
division without a stated result gives any value and FpNumerics is supplied, all admitted by R7. DESIGN CHOICE (log entries 1,
2, 7, 8); unsafe, since a run from `State.reset` shows this processor and no other. -/
def Config.atReset : Config :=
  { Config.specDefault with ext := Extensions.all, misaligned := .bytewise, divZero := .anyValue, fp := .supplied }

/-- What a floating point operation answers (R295): a W-bit result and the four flags. -/
structure FpOut (w : Nat) where
  r : BitVec w
  z : Bool
  c : Bool
  s : Bool
  v : Bool
deriving DecidableEq, Repr, Inhabited

/-- `FpNumerics.itf` (R292, R295): integer to float. No body: the spec states no result (log entry 8); safe. -/
opaque Config.fpItf (w : Nat) (a : BitVec w) : FpOut w

/-- `FpNumerics.fti` (R293, R295): float to integer. No body (log entry 8); safe. -/
opaque Config.fpFti (w : Nat) (a : BitVec w) : FpOut w

/-- `FpNumerics.sqr` (R294, R295): square root. No body (log entry 8); safe. -/
opaque Config.fpSqr (w : Nat) (a : BitVec w) : FpOut w

/-- `FpNumerics.alu` (R291, R295): an integer ALU operation, named by its opcode and function field, while FPM = 1. No body
(log entries 8, 9); safe. -/
opaque Config.fpAlu (opcode : BitVec 5) (fn1 : BitVec 3) (w : Nat) (a b : BitVec w) (cin : Bool) : FpOut w

/-- SR.C after MUL, MLC, DIV and MOD (R280, "any value"), at the draw-th drawing. No body (log entry 7); safe. -/
opaque Config.anyCarry (draw : Nat) : Bool

/-- SR.V after MUL, MLC, DIV and MOD (R280, "any value"), at the draw-th drawing. No body (log entry 7); safe. -/
opaque Config.anyOverflow (draw : Nat) : Bool

/-- The result of DIV and MOD where `DivZero` is "any value" (R286), at the draw-th drawing. No body (log entry 7); safe. -/
opaque Config.anyDivision (draw : Nat) (w : Nat) (a b : BitVec w) : BitVec w

/-- `MulCarryOut` of a platform (R283), on the operands and the carry in. No body (log entry 12); safe. -/
opaque Config.mulCarryOut (w : Nat) (a b m : BitVec w) : BitVec w

/-- The platform's answer for a byte that is no plain memory (R66, R71), after the transfers it was presented with before. No
body (log entry 11); safe. -/
opaque Config.platformByte (before : List Transfer) (a : Addr) : Byte

/-- The value of a storage place of the register bank after the reset event (R50, "any value"). No body; safe. -/
opaque Config.resetRegister (draw : Nat) (place : Nat) : QWord

/-- The value of flag Z, C, S or V (0 to 3) after the reset event (R50, "any value"). No body; safe. -/
opaque Config.resetFlag (draw : Nat) (flag : Nat) : Bool

/-- The value of MC after the reset event (R50, "any value"). No body; safe. -/
opaque Config.resetMc (draw : Nat) : QWord

end Sys2Proof
end

