-- ==== Sys2Proof/Syntax.lean ====
section
/-! DEFINITION. The instructions: one constructor for each row of spec/opcode_table.json. Operand fields have the widths of
their formats (30_encoding.md R94 to R103); `c`, `a`, `b` are the register fields C, A, B and `imm` the immediate field. -/

namespace Sys2Proof

/-- The nine status bits (R35), the operand of SSB and CSB. -/
inductive StatusBit where
  | z | c | s | v | ie | vm | qwm | km | fpm
deriving DecidableEq, Repr

/-- The instructions, in the order of 30_encoding.md R110. -/
inductive Instr where
  -- opcode 00000, format 5
  | add (c a b : RegNum)
  | adc (c a b : RegNum)
  | sub (c a b : RegNum)
  | sbc (c a b : RegNum)
  | and (c a b : RegNum)
  | or (c a b : RegNum)
  | xor (c a b : RegNum)
  -- opcode 00001, format 6
  | addi (c a : RegNum) (imm : BitVec 14)
  | adci (c a : RegNum) (imm : BitVec 14)
  | subi (c a : RegNum) (imm : BitVec 14)
  | sbci (c a : RegNum) (imm : BitVec 14)
  | andi (c a : RegNum) (imm : BitVec 14)
  | ori (c a : RegNum) (imm : BitVec 14)
  | xori (c a : RegNum) (imm : BitVec 14)
  -- opcode 00010, format 7
  | shr (c a : RegNum)
  | asr (c a : RegNum)
  | srn (c a : RegNum)
  | ror (c a : RegNum)
  | sln (c a : RegNum)
  -- opcode 00100, format 3
  | jmp (c : RegNum) (imm : BitVec 15)
  -- opcode 00110, format 4
  | jz (c : RegNum) (imm : BitVec 19)
  | jc (c : RegNum) (imm : BitVec 19)
  | js (c : RegNum) (imm : BitVec 19)
  | jv (c : RegNum) (imm : BitVec 19)
  | jnz (c : RegNum) (imm : BitVec 19)
  | jnc (c : RegNum) (imm : BitVec 19)
  | jns (c : RegNum) (imm : BitVec 19)
  | jnv (c : RegNum) (imm : BitVec 19)
  -- opcodes 01000 and 01001, format 3
  | stb (c a : RegNum) (imm : BitVec 15)
  | stw (c a : RegNum) (imm : BitVec 15)
  | std (c a : RegNum) (imm : BitVec 15)
  | stq (c a : RegNum) (imm : BitVec 15)
  | ldb (c a : RegNum) (imm : BitVec 15)
  | ldw (c a : RegNum) (imm : BitVec 15)
  | ldd (c a : RegNum) (imm : BitVec 15)
  | ldq (c a : RegNum) (imm : BitVec 15)
  -- opcode 01010, format 2
  | mvu (c : RegNum) (imm : BitVec 22)
  -- opcode 01011, format 1
  | int (table : VectorNum)
  -- opcode 01110, format 9
  | ssb (bit : StatusBit)
  | csb (bit : StatusBit)
  -- opcode 01111, format 8
  | urt
  -- opcode 10000, format 13, 64 bits
  | addi64 (c a : RegNum) (imm : BitVec 46)
  | adci64 (c a : RegNum) (imm : BitVec 46)
  | subi64 (c a : RegNum) (imm : BitVec 46)
  | sbci64 (c a : RegNum) (imm : BitVec 46)
  | andi64 (c a : RegNum) (imm : BitVec 46)
  | ori64 (c a : RegNum) (imm : BitVec 46)
  | xori64 (c a : RegNum) (imm : BitVec 46)
  -- opcode 10001, format 10, 64 bits
  | mvu64 (c : RegNum) (imm : BitVec 54)
  -- opcode 10010, format 11, 64 bits
  | ldb64 (c a : RegNum) (imm : BitVec 47)
  | ldw64 (c a : RegNum) (imm : BitVec 47)
  | ldd64 (c a : RegNum) (imm : BitVec 47)
  | ldq64 (c a : RegNum) (imm : BitVec 47)
  -- opcode 10011, format 11, 64 bits
  | stb64 (c a : RegNum) (imm : BitVec 47)
  | stw64 (c a : RegNum) (imm : BitVec 47)
  | std64 (c a : RegNum) (imm : BitVec 47)
  | stq64 (c a : RegNum) (imm : BitVec 47)
  -- opcode 10100, format 10, 64 bits
  | jmp64 (c : RegNum) (imm : BitVec 54)
  -- opcode 10101, format 12, 64 bits
  | jz64 (c : RegNum) (imm : BitVec 51)
  | jc64 (c : RegNum) (imm : BitVec 51)
  | js64 (c : RegNum) (imm : BitVec 51)
  | jv64 (c : RegNum) (imm : BitVec 51)
  | jnz64 (c : RegNum) (imm : BitVec 51)
  | jnc64 (c : RegNum) (imm : BitVec 51)
  | jns64 (c : RegNum) (imm : BitVec 51)
  | jnv64 (c : RegNum) (imm : BitVec 51)
  -- opcode 10110, format 5
  | mul (c a b : RegNum)
  | mlc (c a b : RegNum)
  | div (c a b : RegNum)
  | mod (c a b : RegNum)
  -- opcode 10111, format 5, B unused
  | itf (c a : RegNum)
  | fti (c a : RegNum)
  | sqr (c a : RegNum)
deriving DecidableEq, Repr

end Sys2Proof
end

