-- ==== Sys2Proof/WellFormed.lean ====
section
/-! DEFINITION. Which instructions a processor has. The operand types already exclude every field value without an
instruction, so one check is left for each extension: a processor without it treats its encodings as reserved (R114). -/

namespace Sys2Proof

/-- The part of the ISA an instruction belongs to (R2, and column `requires` of the opcode table). -/
inductive Part where
  | base
  /-- Only with `EXT_Q`. -/
  | quad
  /-- Only with `EXT_M`. -/
  | mulDiv
  /-- Only with `EXT_F`. -/
  | float
deriving DecidableEq, Repr

/-- The part of each instruction. STQ and LDQ have base encodings and exist only with `EXT_Q` (R154, R158). -/
def Instr.part : Instr → Part
  | .add .. | .adc .. | .sub .. | .sbc .. | .and .. | .or .. | .xor .. => .base
  | .addi .. | .adci .. | .subi .. | .sbci .. | .andi .. | .ori .. | .xori .. => .base
  | .shr .. | .asr .. | .srn .. | .ror .. | .sln .. => .base
  | .jmp .. | .jz .. | .jc .. | .js .. | .jv .. | .jnz .. | .jnc .. | .jns .. | .jnv .. => .base
  | .stb .. | .stw .. | .std .. | .ldb .. | .ldw .. | .ldd .. => .base
  | .stq .. | .ldq .. => .quad
  | .mvu .. | .int .. | .ssb .. | .csb .. | .urt => .base
  | .addi64 .. | .adci64 .. | .subi64 .. | .sbci64 .. | .andi64 .. | .ori64 .. | .xori64 .. => .quad
  | .mvu64 .. | .jmp64 .. => .quad
  | .ldb64 .. | .ldw64 .. | .ldd64 .. | .ldq64 .. | .stb64 .. | .stw64 .. | .std64 .. | .stq64 .. => .quad
  | .jz64 .. | .jc64 .. | .js64 .. | .jv64 .. | .jnz64 .. | .jnc64 .. | .jns64 .. | .jnv64 .. => .quad
  | .mul .. | .mlc .. | .div .. | .mod .. => .mulDiv
  | .itf .. | .fti .. | .sqr .. => .float

/-- Whether a processor has a part. -/
def Extensions.has (x : Extensions) : Part → Bool
  | .base => true
  | .quad => x.q
  | .mulDiv => x.m
  | .float => x.f

/-- An instruction is well-formed on a processor that has its part (R114). -/
abbrev Instr.WellFormed (x : Extensions) (i : Instr) : Prop := x.has i.part = true

/-- The eight-byte instructions, formats 10 to 13 (R90, R92). -/
def Instr.isLong : Instr → Bool
  | .addi64 .. | .adci64 .. | .subi64 .. | .sbci64 .. | .andi64 .. | .ori64 .. | .xori64 .. => true
  | .mvu64 .. | .jmp64 .. => true
  | .ldb64 .. | .ldw64 .. | .ldd64 .. | .ldq64 .. | .stb64 .. | .stw64 .. | .std64 .. | .stq64 .. => true
  | .jz64 .. | .jc64 .. | .js64 .. | .jv64 .. | .jnz64 .. | .jnc64 .. | .jns64 .. | .jnv64 .. => true
  | .add .. | .adc .. | .sub .. | .sbc .. | .and .. | .or .. | .xor .. => false
  | .addi .. | .adci .. | .subi .. | .sbci .. | .andi .. | .ori .. | .xori .. => false
  | .shr .. | .asr .. | .srn .. | .ror .. | .sln .. => false
  | .jmp .. | .jz .. | .jc .. | .js .. | .jv .. | .jnz .. | .jnc .. | .jns .. | .jnv .. => false
  | .stb .. | .stw .. | .std .. | .stq .. | .ldb .. | .ldw .. | .ldd .. | .ldq .. => false
  | .mvu .. | .int .. | .ssb .. | .csb .. | .urt => false
  | .mul .. | .mlc .. | .div .. | .mod .. | .itf .. | .fti .. | .sqr .. => false

end Sys2Proof
end

