-- ==== Sys2Proof/Decode.lean ====
section
/-! DEFINITION. The decoder and the encoder (30_encoding.md), with the byte-order helpers they share with memory
(20_memory.md R63, R64). A field `w.extractLsb' lo n` is bits lo + n - 1 down to lo. -/

namespace Sys2Proof

/-- Why the decoder gives no instruction. -/
inductive DecodeError where
  /-- One of the 13 opcodes without an instruction (R112). -/
  | unassignedOpcode
  /-- A function field value without an instruction under an assigned opcode (R112). -/
  | unassignedFunction
  /-- SSB or CSB with `BIT` = 9 to 15 (R112, R230, R231). -/
  | noSuchStatusBit
  /-- An instruction of an extension that the processor lacks (R114). -/
  | absentExtension
  /-- Fewer words than the instruction has; never raised by the step, which fetches all of them (R92). -/
  | truncated
deriving DecidableEq, Repr

/-! Byte order. -/

/-- The value whose bytes, least significant first, are the list (R66). -/
def joinLittle : List Byte → QWord
  | [] => 0#64
  | b :: bs => b.setWidth 64 ||| (joinLittle bs <<< 8)

/-- The low `n` bytes of a value, least significant first (R67). -/
def splitLittle : Nat → QWord → List Byte
  | 0, _ => []
  | n + 1, v => v.setWidth 8 :: splitLittle n (v >>> 8)

/-- The value of the bytes found at rising addresses (R63). -/
def joinBytes (e : Endian) (bs : List Byte) : QWord :=
  match e with
  | .little => joinLittle bs
  | .big => joinLittle bs.reverse

/-- The low `n` bytes of a value in the order of rising addresses (R63). -/
def splitBytes (e : Endian) (n : Nat) (v : QWord) : List Byte :=
  match e with
  | .little => splitLittle n v
  | .big => (splitLittle n v).reverse

/-! Status bits by number (R35, R101). -/

/-- The number of a status bit (R35). -/
def StatusBit.number : StatusBit → BitVec 4
  | .z => 0 | .c => 1 | .s => 2 | .v => 3 | .ie => 4 | .vm => 5 | .qwm => 6 | .km => 7 | .fpm => 8

/-- The status bit of a `BIT` field; there are none above 8 (R35, R112). -/
def StatusBit.ofNumber (n : BitVec 4) : Option StatusBit :=
  match n.toNat with
  | 0 => some .z | 1 => some .c | 2 => some .s | 3 => some .v | 4 => some .ie
  | 5 => some .vm | 6 => some .qwm | 7 => some .km | 8 => some .fpm
  | _ => none

/-! The groups of the opcode map (R110). -/

/-- Opcode 00000, selected by FN 1 at 11:9. -/
def decodeAlu (c a b : RegNum) (fn : BitVec 3) : Except DecodeError Instr :=
  match fn.toNat with
  | 0 => .ok (.add c a b)
  | 1 => .ok (.adc c a b)
  | 2 => .ok (.sub c a b)
  | 3 => .ok (.sbc c a b)
  | 4 => .ok (.and c a b)
  | 5 => .ok (.or c a b)
  | 6 => .ok (.xor c a b)
  | _ => .error .unassignedFunction

/-- Opcode 00001, selected by FN 1 at 16:14. -/
def decodeAluImm (c a : RegNum) (imm : BitVec 14) (fn : BitVec 3) : Except DecodeError Instr :=
  match fn.toNat with
  | 0 => .ok (.addi c a imm)
  | 1 => .ok (.adci c a imm)
  | 2 => .ok (.subi c a imm)
  | 3 => .ok (.sbci c a imm)
  | 4 => .ok (.andi c a imm)
  | 5 => .ok (.ori c a imm)
  | 6 => .ok (.xori c a imm)
  | _ => .error .unassignedFunction

/-- Opcode 00010, selected by FN 1 at 16:14 (R100). -/
def decodeShift (c a : RegNum) (fn : BitVec 3) : Except DecodeError Instr :=
  match fn.toNat with
  | 0 => .ok (.shr c a)
  | 1 => .ok (.asr c a)
  | 2 => .ok (.srn c a)
  | 3 => .ok (.ror c a)
  | 4 => .ok (.sln c a)
  | _ => .error .unassignedFunction

/-- Opcode 00110, selected by FN 1 at 21:19 (R97). -/
def decodeCondJump (c : RegNum) (imm : BitVec 19) (fn : BitVec 3) : Except DecodeError Instr :=
  match fn.toNat with
  | 0 => .ok (.jz c imm)
  | 1 => .ok (.jc c imm)
  | 2 => .ok (.js c imm)
  | 3 => .ok (.jv c imm)
  | 4 => .ok (.jnz c imm)
  | 5 => .ok (.jnc c imm)
  | 6 => .ok (.jns c imm)
  | 7 => .ok (.jnv c imm)
  | _ => .error .unassignedFunction

/-- Opcode 01000, selected by FN 1 at 16:15. -/
def decodeStore (c a : RegNum) (imm : BitVec 15) (fn : BitVec 2) : Except DecodeError Instr :=
  match fn.toNat with
  | 0 => .ok (.stb c a imm)
  | 1 => .ok (.stw c a imm)
  | 2 => .ok (.std c a imm)
  | 3 => .ok (.stq c a imm)
  | _ => .error .unassignedFunction

/-- Opcode 01001, selected by FN 1 at 16:15. -/
def decodeLoad (c a : RegNum) (imm : BitVec 15) (fn : BitVec 2) : Except DecodeError Instr :=
  match fn.toNat with
  | 0 => .ok (.ldb c a imm)
  | 1 => .ok (.ldw c a imm)
  | 2 => .ok (.ldd c a imm)
  | 3 => .ok (.ldq c a imm)
  | _ => .error .unassignedFunction

/-- Opcode 01110: `BIT` is the status bit, `SEL` = 1 sets it and `SEL` = 0 clears it (R101). -/
def decodeStatus (bit : BitVec 4) (sel : BitVec 1) : Except DecodeError Instr :=
  match StatusBit.ofNumber bit with
  | some b => if sel = 1#1 then .ok (.ssb b) else .ok (.csb b)
  | none => .error .noSuchStatusBit

/-- Opcode 10110, selected by FN 1 at 11:9; MOD is 100, not 011 (R280). -/
def decodeMulDiv (c a b : RegNum) (fn : BitVec 3) : Except DecodeError Instr :=
  match fn.toNat with
  | 0 => .ok (.mul c a b)
  | 1 => .ok (.mlc c a b)
  | 2 => .ok (.div c a b)
  | 4 => .ok (.mod c a b)
  | _ => .error .unassignedFunction

/-- Opcode 10111, selected by FN 1 at 11:9 (R290). -/
def decodeFloat (c a : RegNum) (fn : BitVec 3) : Except DecodeError Instr :=
  match fn.toNat with
  | 0 => .ok (.itf c a)
  | 1 => .ok (.fti c a)
  | 2 => .ok (.sqr c a)
  | _ => .error .unassignedFunction

/-- Opcode 10000, selected by FN 1 at 48:46 (R103). -/
def decodeAluLong (c a : RegNum) (imm : BitVec 46) (fn : BitVec 3) : Except DecodeError Instr :=
  match fn.toNat with
  | 0 => .ok (.addi64 c a imm)
  | 1 => .ok (.adci64 c a imm)
  | 2 => .ok (.subi64 c a imm)
  | 3 => .ok (.sbci64 c a imm)
  | 4 => .ok (.andi64 c a imm)
  | 5 => .ok (.ori64 c a imm)
  | 6 => .ok (.xori64 c a imm)
  | _ => .error .unassignedFunction

/-- Opcode 10010, selected by FN 1 at 48:47 (R103). -/
def decodeLoadLong (c a : RegNum) (imm : BitVec 47) (fn : BitVec 2) : Except DecodeError Instr :=
  match fn.toNat with
  | 0 => .ok (.ldb64 c a imm)
  | 1 => .ok (.ldw64 c a imm)
  | 2 => .ok (.ldd64 c a imm)
  | 3 => .ok (.ldq64 c a imm)
  | _ => .error .unassignedFunction

/-- Opcode 10011, selected by FN 1 at 48:47 (R103). -/
def decodeStoreLong (c a : RegNum) (imm : BitVec 47) (fn : BitVec 2) : Except DecodeError Instr :=
  match fn.toNat with
  | 0 => .ok (.stb64 c a imm)
  | 1 => .ok (.stw64 c a imm)
  | 2 => .ok (.std64 c a imm)
  | 3 => .ok (.stq64 c a imm)
  | _ => .error .unassignedFunction

/-- Opcode 10101, selected by FN 1 at 53:51 (R103). -/
def decodeCondJumpLong (c : RegNum) (imm : BitVec 51) (fn : BitVec 3) : Except DecodeError Instr :=
  match fn.toNat with
  | 0 => .ok (.jz64 c imm)
  | 1 => .ok (.jc64 c imm)
  | 2 => .ok (.js64 c imm)
  | 3 => .ok (.jv64 c imm)
  | 4 => .ok (.jnz64 c imm)
  | 5 => .ok (.jnc64 c imm)
  | 6 => .ok (.jns64 c imm)
  | 7 => .ok (.jnv64 c imm)
  | _ => .error .unassignedFunction

/-- The opcode field of a first word, bits 31:27 (R91). -/
def opcodeOf (w : DWord) : BitVec 5 := w.extractLsb' 27 5

/-- The opcodes of the eight-byte instructions, 10000 to 10101 (R92). -/
def isLongOpcode (op : BitVec 5) : Bool := decide (16 ≤ op.toNat) && decide (op.toNat ≤ 21)

/-- Whether the instruction that begins with `w` is 64 bits long: only with `EXT_Q` (R92). -/
def longFormat (x : Extensions) (w : DWord) : Bool := x.q && isLongOpcode (opcodeOf w)

/-- The instruction of a 32-bit word (R94 to R102, R110); unused bits are ignored (R106). -/
def decodeShort (w : DWord) : Except DecodeError Instr :=
  let c := w.extractLsb' 22 5
  let a := w.extractLsb' 17 5
  let b := w.extractLsb' 12 5
  match (opcodeOf w).toNat with
  | 0 => decodeAlu c a b (w.extractLsb' 9 3)
  | 1 => decodeAluImm c a (w.extractLsb' 0 14) (w.extractLsb' 14 3)
  | 2 => decodeShift c a (w.extractLsb' 14 3)
  | 4 => .ok (.jmp c (w.extractLsb' 0 15))
  | 6 => decodeCondJump c (w.extractLsb' 0 19) (w.extractLsb' 19 3)
  | 8 => decodeStore c a (w.extractLsb' 0 15) (w.extractLsb' 15 2)
  | 9 => decodeLoad c a (w.extractLsb' 0 15) (w.extractLsb' 15 2)
  | 10 => .ok (.mvu c (w.extractLsb' 0 22))
  | 11 => .ok (.int (w.extractLsb' 23 4))
  | 14 => decodeStatus (w.extractLsb' 23 4) (w.extractLsb' 22 1)
  | 15 => .ok .urt
  | 22 => decodeMulDiv c a b (w.extractLsb' 9 3)
  | 23 => decodeFloat c a (w.extractLsb' 9 3)
  | _ => .error .unassignedOpcode

/-- The instruction of a 64-bit word, its first word being bits 63:32 (R64, R103). -/
def decodeLong (w : QWord) : Except DecodeError Instr :=
  let c := w.extractLsb' 54 5
  let a := w.extractLsb' 49 5
  match (w.extractLsb' 59 5).toNat with
  | 16 => decodeAluLong c a (w.extractLsb' 0 46) (w.extractLsb' 46 3)
  | 17 => .ok (.mvu64 c (w.extractLsb' 0 54))
  | 18 => decodeLoadLong c a (w.extractLsb' 0 47) (w.extractLsb' 47 2)
  | 19 => decodeStoreLong c a (w.extractLsb' 0 47) (w.extractLsb' 47 2)
  | 20 => .ok (.jmp64 c (w.extractLsb' 0 54))
  | 21 => decodeCondJumpLong c (w.extractLsb' 0 51) (w.extractLsb' 51 3)
  | _ => .error .unassignedOpcode

/-- A processor refuses the instructions of an extension it lacks (R114). -/
def requirePart (x : Extensions) (i : Instr) : Except DecodeError Instr :=
  if x.has i.part then .ok i else .error .absentExtension

/-- The instruction that begins with a word, the words after it following; later words are ignored. Total: every list of
words gives an instruction or a named error. Without `EXT_Q` the six wide opcodes are reserved (R92, R114). -/
def decode (x : Extensions) : List DWord → Except DecodeError Instr
  | [] => .error .truncated
  | w :: rest =>
    if isLongOpcode (opcodeOf w) then
      if x.q then
        match rest with
        | [] => .error .truncated
        | w' :: _ => decodeLong (w ++ w')
      else .error .absentExtension
    else
      match decodeShort w with
      | .ok i => requirePart x i
      | .error e => .error e

/-- The instruction words of bytes found at rising addresses; an incomplete last word is left out (R64). -/
def wordsOfBytes (e : Endian) : List Byte → List DWord
  | b0 :: b1 :: b2 :: b3 :: rest => (joinBytes e [b0, b1, b2, b3]).setWidth 32 :: wordsOfBytes e rest
  | _ => []

/-- The decoder on bytes found at rising addresses, total on any bytes. -/
def decodeBytes (e : Endian) (x : Extensions) (bs : List Byte) : Except DecodeError Instr :=
  decode x (wordsOfBytes e bs)

/-! The encoder: the same formats read the other way; unused bits are written 0 (R106). -/

/-- An encoded instruction: one word of 32 bits, or one of 64 (R90). -/
inductive Code where
  | short (w : DWord)
  | long (w : QWord)
deriving DecidableEq, Repr

/-- The words in memory order: of a 64-bit instruction, bits 63:32 first (R64). -/
def Code.words : Code → List DWord
  | .short w => [w]
  | .long w => [w.extractLsb' 32 32, w.extractLsb' 0 32]

/-- Format 1 (R94). -/
def format1 (op : BitVec 5) (table : BitVec 4) : DWord := op ++ table ++ 0#23
/-- Format 2 (R95). -/
def format2 (op c : BitVec 5) (imm : BitVec 22) : DWord := op ++ c ++ imm
/-- Format 3 (R96). -/
def format3 (op c a : BitVec 5) (fn : BitVec 2) (imm : BitVec 15) : DWord := op ++ c ++ a ++ fn ++ imm
/-- Format 4 (R97). -/
def format4 (op c : BitVec 5) (fn : BitVec 3) (imm : BitVec 19) : DWord := op ++ c ++ fn ++ imm
/-- Format 5 (R98). -/
def format5 (op c a b : BitVec 5) (fn : BitVec 3) : DWord := op ++ c ++ a ++ b ++ fn ++ 0#9
/-- Format 6 (R99). -/
def format6 (op c a : BitVec 5) (fn : BitVec 3) (imm : BitVec 14) : DWord := op ++ c ++ a ++ fn ++ imm
/-- Format 7 (R100). -/
def format7 (op c a : BitVec 5) (fn : BitVec 3) : DWord := op ++ c ++ a ++ fn ++ 0#14
/-- Format 8 (R102). -/
def format8 (op : BitVec 5) : DWord := op ++ 0#27
/-- Format 9 (R101). -/
def format9 (op : BitVec 5) (bit : BitVec 4) (sel : BitVec 1) : DWord := op ++ bit ++ sel ++ 0#22
/-- Format 10 (R103). -/
def format10 (op c : BitVec 5) (imm : BitVec 54) : QWord := op ++ c ++ imm
/-- Format 11 (R103). -/
def format11 (op c a : BitVec 5) (fn : BitVec 2) (imm : BitVec 47) : QWord := op ++ c ++ a ++ fn ++ imm
/-- Format 12 (R103). -/
def format12 (op c : BitVec 5) (fn : BitVec 3) (imm : BitVec 51) : QWord := op ++ c ++ fn ++ imm
/-- Format 13 (R103). -/
def format13 (op c a : BitVec 5) (fn : BitVec 3) (imm : BitVec 46) : QWord := op ++ c ++ a ++ fn ++ imm

/-- The code of an instruction (R110). -/
def Instr.code : Instr → Code
  | .add c a b => .short (format5 0b00000 c a b 0)
  | .adc c a b => .short (format5 0b00000 c a b 1)
  | .sub c a b => .short (format5 0b00000 c a b 2)
  | .sbc c a b => .short (format5 0b00000 c a b 3)
  | .and c a b => .short (format5 0b00000 c a b 4)
  | .or c a b => .short (format5 0b00000 c a b 5)
  | .xor c a b => .short (format5 0b00000 c a b 6)
  | .addi c a imm => .short (format6 0b00001 c a 0 imm)
  | .adci c a imm => .short (format6 0b00001 c a 1 imm)
  | .subi c a imm => .short (format6 0b00001 c a 2 imm)
  | .sbci c a imm => .short (format6 0b00001 c a 3 imm)
  | .andi c a imm => .short (format6 0b00001 c a 4 imm)
  | .ori c a imm => .short (format6 0b00001 c a 5 imm)
  | .xori c a imm => .short (format6 0b00001 c a 6 imm)
  | .shr c a => .short (format7 0b00010 c a 0)
  | .asr c a => .short (format7 0b00010 c a 1)
  | .srn c a => .short (format7 0b00010 c a 2)
  | .ror c a => .short (format7 0b00010 c a 3)
  | .sln c a => .short (format7 0b00010 c a 4)
  | .jmp c imm => .short (format3 0b00100 c 0 0 imm)
  | .jz c imm => .short (format4 0b00110 c 0 imm)
  | .jc c imm => .short (format4 0b00110 c 1 imm)
  | .js c imm => .short (format4 0b00110 c 2 imm)
  | .jv c imm => .short (format4 0b00110 c 3 imm)
  | .jnz c imm => .short (format4 0b00110 c 4 imm)
  | .jnc c imm => .short (format4 0b00110 c 5 imm)
  | .jns c imm => .short (format4 0b00110 c 6 imm)
  | .jnv c imm => .short (format4 0b00110 c 7 imm)
  | .stb c a imm => .short (format3 0b01000 c a 0 imm)
  | .stw c a imm => .short (format3 0b01000 c a 1 imm)
  | .std c a imm => .short (format3 0b01000 c a 2 imm)
  | .stq c a imm => .short (format3 0b01000 c a 3 imm)
  | .ldb c a imm => .short (format3 0b01001 c a 0 imm)
  | .ldw c a imm => .short (format3 0b01001 c a 1 imm)
  | .ldd c a imm => .short (format3 0b01001 c a 2 imm)
  | .ldq c a imm => .short (format3 0b01001 c a 3 imm)
  | .mvu c imm => .short (format2 0b01010 c imm)
  | .int table => .short (format1 0b01011 table)
  | .ssb bit => .short (format9 0b01110 bit.number 1)
  | .csb bit => .short (format9 0b01110 bit.number 0)
  | .urt => .short (format8 0b01111)
  | .addi64 c a imm => .long (format13 0b10000 c a 0 imm)
  | .adci64 c a imm => .long (format13 0b10000 c a 1 imm)
  | .subi64 c a imm => .long (format13 0b10000 c a 2 imm)
  | .sbci64 c a imm => .long (format13 0b10000 c a 3 imm)
  | .andi64 c a imm => .long (format13 0b10000 c a 4 imm)
  | .ori64 c a imm => .long (format13 0b10000 c a 5 imm)
  | .xori64 c a imm => .long (format13 0b10000 c a 6 imm)
  | .mvu64 c imm => .long (format10 0b10001 c imm)
  | .ldb64 c a imm => .long (format11 0b10010 c a 0 imm)
  | .ldw64 c a imm => .long (format11 0b10010 c a 1 imm)
  | .ldd64 c a imm => .long (format11 0b10010 c a 2 imm)
  | .ldq64 c a imm => .long (format11 0b10010 c a 3 imm)
  | .stb64 c a imm => .long (format11 0b10011 c a 0 imm)
  | .stw64 c a imm => .long (format11 0b10011 c a 1 imm)
  | .std64 c a imm => .long (format11 0b10011 c a 2 imm)
  | .stq64 c a imm => .long (format11 0b10011 c a 3 imm)
  | .jmp64 c imm => .long (format10 0b10100 c imm)
  | .jz64 c imm => .long (format12 0b10101 c 0 imm)
  | .jc64 c imm => .long (format12 0b10101 c 1 imm)
  | .js64 c imm => .long (format12 0b10101 c 2 imm)
  | .jv64 c imm => .long (format12 0b10101 c 3 imm)
  | .jnz64 c imm => .long (format12 0b10101 c 4 imm)
  | .jnc64 c imm => .long (format12 0b10101 c 5 imm)
  | .jns64 c imm => .long (format12 0b10101 c 6 imm)
  | .jnv64 c imm => .long (format12 0b10101 c 7 imm)
  | .mul c a b => .short (format5 0b10110 c a b 0)
  | .mlc c a b => .short (format5 0b10110 c a b 1)
  | .div c a b => .short (format5 0b10110 c a b 2)
  | .mod c a b => .short (format5 0b10110 c a b 4)
  | .itf c a => .short (format5 0b10111 c a 0 0)
  | .fti c a => .short (format5 0b10111 c a 0 1)
  | .sqr c a => .short (format5 0b10111 c a 0 2)

/-- The encoder: the words of an instruction in memory order. -/
def encode (i : Instr) : List DWord := i.code.words

/-! The rows of spec/opcode_table.json, as a check on the formats that does not go through them. -/

/-- A row's `match` and `mask`. -/
structure Row where
  pattern : Code
  mask : Code
deriving DecidableEq, Repr

/-- An instruction word selects the row when the word, masked, is the row's pattern (spec/INDEX.md). -/
def Row.selects (row : Row) : Code → Bool
  | .short w =>
    match row.pattern, row.mask with
    | .short p, .short m => w &&& m == p
    | _, _ => false
  | .long w =>
    match row.pattern, row.mask with
    | .long p, .long m => w &&& m == p
    | _, _ => false

/-- A row of 32 bits. -/
def Row.short (p m : DWord) : Row := { pattern := .short p, mask := .short m }
/-- A row of 64 bits. -/
def Row.long (p m : QWord) : Row := { pattern := .long p, mask := .long m }

/-- The row of each instruction, its `match` and `mask` copied from the table. -/
def Instr.row : Instr → Row
  | .add .. => .short 0x00000000 0xF8000E00
  | .adc .. => .short 0x00000200 0xF8000E00
  | .sub .. => .short 0x00000400 0xF8000E00
  | .sbc .. => .short 0x00000600 0xF8000E00
  | .and .. => .short 0x00000800 0xF8000E00
  | .or .. => .short 0x00000A00 0xF8000E00
  | .xor .. => .short 0x00000C00 0xF8000E00
  | .addi .. => .short 0x08000000 0xF801C000
  | .adci .. => .short 0x08004000 0xF801C000
  | .subi .. => .short 0x08008000 0xF801C000
  | .sbci .. => .short 0x0800C000 0xF801C000
  | .andi .. => .short 0x08010000 0xF801C000
  | .ori .. => .short 0x08014000 0xF801C000
  | .xori .. => .short 0x08018000 0xF801C000
  | .shr .. => .short 0x10000000 0xF801C000
  | .asr .. => .short 0x10004000 0xF801C000
  | .srn .. => .short 0x10008000 0xF801C000
  | .ror .. => .short 0x1000C000 0xF801C000
  | .sln .. => .short 0x10010000 0xF801C000
  | .jmp .. => .short 0x20000000 0xF8000000
  | .jz .. => .short 0x30000000 0xF8380000
  | .jc .. => .short 0x30080000 0xF8380000
  | .js .. => .short 0x30100000 0xF8380000
  | .jv .. => .short 0x30180000 0xF8380000
  | .jnz .. => .short 0x30200000 0xF8380000
  | .jnc .. => .short 0x30280000 0xF8380000
  | .jns .. => .short 0x30300000 0xF8380000
  | .jnv .. => .short 0x30380000 0xF8380000
  | .stb .. => .short 0x40000000 0xF8018000
  | .stw .. => .short 0x40008000 0xF8018000
  | .std .. => .short 0x40010000 0xF8018000
  | .stq .. => .short 0x40018000 0xF8018000
  | .ldb .. => .short 0x48000000 0xF8018000
  | .ldw .. => .short 0x48008000 0xF8018000
  | .ldd .. => .short 0x48010000 0xF8018000
  | .ldq .. => .short 0x48018000 0xF8018000
  | .mvu .. => .short 0x50000000 0xF8000000
  | .int .. => .short 0x58000000 0xF8000000
  | .ssb .. => .short 0x70400000 0xF8400000
  | .csb .. => .short 0x70000000 0xF8400000
  | .urt => .short 0x78000000 0xF8000000
  | .addi64 .. => .long 0x8000000000000000 0xF801C00000000000
  | .adci64 .. => .long 0x8000400000000000 0xF801C00000000000
  | .subi64 .. => .long 0x8000800000000000 0xF801C00000000000
  | .sbci64 .. => .long 0x8000C00000000000 0xF801C00000000000
  | .andi64 .. => .long 0x8001000000000000 0xF801C00000000000
  | .ori64 .. => .long 0x8001400000000000 0xF801C00000000000
  | .xori64 .. => .long 0x8001800000000000 0xF801C00000000000
  | .mvu64 .. => .long 0x8800000000000000 0xF800000000000000
  | .ldb64 .. => .long 0x9000000000000000 0xF801800000000000
  | .ldw64 .. => .long 0x9000800000000000 0xF801800000000000
  | .ldd64 .. => .long 0x9001000000000000 0xF801800000000000
  | .ldq64 .. => .long 0x9001800000000000 0xF801800000000000
  | .stb64 .. => .long 0x9800000000000000 0xF801800000000000
  | .stw64 .. => .long 0x9800800000000000 0xF801800000000000
  | .std64 .. => .long 0x9801000000000000 0xF801800000000000
  | .stq64 .. => .long 0x9801800000000000 0xF801800000000000
  | .jmp64 .. => .long 0xA000000000000000 0xF800000000000000
  | .jz64 .. => .long 0xA800000000000000 0xF838000000000000
  | .jc64 .. => .long 0xA808000000000000 0xF838000000000000
  | .js64 .. => .long 0xA810000000000000 0xF838000000000000
  | .jv64 .. => .long 0xA818000000000000 0xF838000000000000
  | .jnz64 .. => .long 0xA820000000000000 0xF838000000000000
  | .jnc64 .. => .long 0xA828000000000000 0xF838000000000000
  | .jns64 .. => .long 0xA830000000000000 0xF838000000000000
  | .jnv64 .. => .long 0xA838000000000000 0xF838000000000000
  | .mul .. => .short 0xB0000000 0xF8000E00
  | .mlc .. => .short 0xB0000200 0xF8000E00
  | .div .. => .short 0xB0000400 0xF8000E00
  | .mod .. => .short 0xB0000800 0xF8000E00
  | .itf .. => .short 0xB8000000 0xF8000E00
  | .fti .. => .short 0xB8000200 0xF8000E00
  | .sqr .. => .short 0xB8000400 0xF8000E00

/-- The words of an opcode-table instruction whose bits are `w`: a row of 32 bits has one word, followed here by a word of
zeros; a row of 64 bits has its first word in bits 63:32, as the table numbers them (spec/INDEX.md, R64; log entry 14). -/
def tableWords (nbits w : Nat) : List DWord :=
  if nbits ≤ 32 then [BitVec.ofNat 32 w, 0#32] else [BitVec.ofNat 32 (w / 2 ^ 32), BitVec.ofNat 32 w]

/-- The bytes of words in memory order (R63). -/
def bytesOfWords (e : Endian) : List DWord → List Byte
  | [] => []
  | w :: ws => splitBytes e 4 (w.setWidth 64) ++ bytesOfWords e ws

/-- The instruction the decoder reads from a word of the opcode table, laid out as bytes and decoded with every extension
present. -/
def decodeTableWord (nbits w : Nat) : Option Instr :=
  (decodeBytes .little Extensions.all (bytesOfWords .little (tableWords nbits w))).toOption

end Sys2Proof
end

