-- ==== Sys2Proof/Machine/State.lean ====
section
/-! DEFINITION. The state of the machine (10_state.md), the reasons a step can stop, and the machine right after reset. -/

namespace Sys2Proof.Machine

/-- Why a step stops with a fault. No constructor: the spec has no fault. Its only traps are INT and hardware interrupts,
which are entries and not stops, and "No item below is `fault`" (R301, R302, 93_implementation_defined.md). -/
inductive Fault where
deriving DecidableEq, Repr

/-- Why a step is refused: what the spec writes `refuse(…)`, a situation it gives no effect. All of them are safe: the model
stops where hardware may go on. -/
inductive Refusal where
  /-- Raised by no instruction: every arm of `exec` has its meaning. Safe. -/
  | notModelled (mnemonic : String)
  /-- Raised by the step when the word at the pc is a reserved encoding (R112, R114): "Executing one is `refuse(reserved
  encoding)`". Safe. -/
  | reservedEncoding (why : DecodeError)
  /-- Raised by loads, stores and vector reads under `MISALIGNED` = refuse (R66, R67, R68). Safe. -/
  | misalignedAccess
  /-- Raised by the step's fetch under `MISALIGNED` = refuse (R31). Safe. -/
  | misalignedFetch
  /-- Raised by every memory access, fetch included, while SR.VM = 1 (R78). Safe. -/
  | virtualMemoryNotSpecified
  /-- Raised by DIV and MOD under `DivZero` = refuse, with divisor 0 or an overflowing quotient (R286). Safe. -/
  | divisionResultNotSpecified
  /-- Raised under `FpNumerics` = none by ITF, FTI and SQR, and while FPM = 1 by every integer ALU operation (R290, R291).
  Safe. -/
  | floatingPointNotSpecified
deriving DecidableEq, Repr

/-- The status register's nine bits (R35). It has no other bits and is never written as a whole (R37). -/
structure StatusRegister where
  /-- Bit 0, Zero. -/
  z : Bool
  /-- Bit 1, Carry; after a subtraction the borrow. -/
  c : Bool
  /-- Bit 2, Sign. -/
  s : Bool
  /-- Bit 3, Overflow. -/
  v : Bool
  /-- Bit 4, Enable hardware interrupts (R40). -/
  ie : Bool
  /-- Bit 5, Virtual memory mode (R41). -/
  vm : Bool
  /-- Bit 6, 64-bit mode (R42). -/
  qwm : Bool
  /-- Bit 7, Kernel mode (R43). -/
  km : Bool
  /-- Bit 8, Floating point mode (R44). -/
  fpm : Bool
deriving DecidableEq, Repr

/-- Memory (R60): the bytes that differ from what an unlisted address reads as, at strictly rising addresses
(`Memory.wf`). -/
abbrev Memory := List Host.Cell

/-- What an unlisted address reads as. The spec leaves the contents at power-on to the platform (R50); zero is a DESIGN
CHOICE (log entry 4), unsafe. -/
def Memory.unlisted : Byte := 0#8

/-- The whole state (10_state.md), with the parameters of R7 and the model's counter of free values. -/
structure State where
  /-- The parameters of R7; no operation writes them (log entry 1). -/
  cfg : Config
  /-- The 29 writable registers, 1 to 24 and 26 to 30 in order (R22), each in a 64-bit container (log entry 13). -/
  regs : Vector QWord 29
  /-- The program counter: the address of the instruction being executed (R30). -/
  pc : Addr
  /-- The status register SR (R35). -/
  sr : StatusRegister
  /-- The multiplication carry register MC (R45). -/
  mc : QWord
  mem : Memory
  /-- The answers of `IrqOracle` at its coming consultations, the next one first; after the last, none ever (R308; log
  entry 10). -/
  requests : List (Option VectorNum)
  /-- The transfers that reached a device or nothing, oldest first: what the platform has been presented with (R70, R71, R80).
  The model's own field (log entry 11). -/
  presented : List Transfer
  /-- How many times a free value has been drawn; the model's own field (log entry 7). -/
  draws : Nat
deriving DecidableEq, Repr

/-- The machine right after reset (R50, R340), over a memory with nothing listed. Stated by the spec: KM = 1, IE, VM, QWM and
FPM = 0, the pc the word at `RST_VEC`, which is 0 over that memory (log entry 6). Named by the log where R50 says "any value":
the registers, Z, C, S, V and MC are 0 (DESIGN CHOICE, log entry 5, unsafe); the parameters are log entries 1, 2, 7 and 8. -/
def State.reset : State where
  cfg := Config.atReset
  regs := Vector.replicate 29 0#64
  pc := 0#32
  sr := { z := false, c := false, s := false, v := false, ie := false, vm := false, qwm := false, km := true, fpm := false }
  mc := 0#64
  mem := []
  requests := []
  presented := []
  draws := 0

end Sys2Proof.Machine
end

