-- ==== Sys2Proof/Machine/Ops.lean ====
section
/-! DEFINITION. The operations on registers, on memory and on the status register, the entry of an interrupt and the return
from it, the consultation of the interrupt source, the fetch, and the reset event. -/

namespace Sys2Proof.Machine

/-! Memory (20_memory.md). -/

/-- The canonical form: addresses of the space, strictly rising, and no byte equal to what an unlisted address reads as. -/
abbrev Memory.wf (m : Memory) : Prop :=
  m.Pairwise (fun c d => c.1 < d.1) ∧ ∀ c ∈ m, c.1 < 2 ^ 32 ∧ c.2 ≠ Memory.unlisted

/-- The byte memory holds at an address. -/
def Memory.read : Memory → Nat → Byte
  | [], _ => Memory.unlisted
  | cell :: rest, a => if cell.1 = a then cell.2 else Memory.read rest a

/-- List a byte at an address that is not listed, keeping the addresses rising. -/
def Memory.insert : Memory → Nat → Byte → Memory
  | [], a, v => [(a, v)]
  | cell :: rest, a, v => if a < cell.1 then (a, v) :: cell :: rest else cell :: Memory.insert rest a v

/-- Write the byte at an address: what an unlisted address reads as is not listed. -/
def Memory.write (m : Memory) (a : Nat) (v : Byte) : Memory :=
  let others := m.filter (fun cell => cell.1 != a)
  if v = Memory.unlisted then others else Memory.insert others a v

/-- Write bytes at `a`, `a + 1`, …, addresses modulo 2^32 (R67), where plain memory lies. -/
def Memory.writeBytes (m : Memory) (plain : Addr → Bool) (a : Addr) : List Byte → Memory
  | [] => m
  | b :: bs => Memory.writeBytes (if plain a then m.write a.toNat b else m) plain (a + 1#32) bs

/-- What lies at an address (R71). -/
def areaAt (c : Config) (a : Addr) : Area :=
  match c.memMap.find? fun r => decide (r.base ≤ a.toNat) && decide (a.toNat < r.base + r.size) with
  | some r => r.area
  | none => .memory

/-- Plain memory lies at the address. -/
def isPlain (c : Config) (a : Addr) : Bool := areaAt c a == .memory

/-- The byte at an address (R66): memory's, or the platform's answer for a device or an unpopulated address (R71). -/
def State.byteAt (s : State) (a : Addr) : Byte :=
  if isPlain s.cfg a then s.mem.read a.toNat else Config.platformByte s.presented a

/-- The bytes at `a`, `a + 1`, …, addresses modulo 2^32 (R66). -/
def State.readBytes (s : State) (a : Addr) : Nat → List Byte
  | 0 => []
  | n + 1 => s.byteAt a :: State.readBytes s (a + 1#32) n

/-- The widths of a data access (R69), by the glossary's names (R14). -/
inductive Size where
  | byte
  | word
  | dword
  | qword
deriving DecidableEq, Repr

/-- The bytes of an access (R69). -/
def Size.bytes : Size → Nat
  | .byte => 1 | .word => 2 | .dword => 4 | .qword => 8

/-- The alignment an access requires under `MISALIGNED` = refuse (R66, R68, D40): its own size, but for an eight-byte access
what `quadAlignment` says (log entry 3). -/
def alignment (c : Config) (n : Size) : Nat :=
  match n, c.quadAlignment with
  | .qword, .four => 4
  | _, _ => n.bytes

/-- The bus transfers of an access, each as its offset and its bytes (R69, D40): one for an aligned access of up to four
bytes, two of four bytes for eight, the lower address first, and one for each byte of a misaligned access (R68). -/
def transferParts (a : Addr) (n : Size) : List (Nat × Nat) :=
  if a.toNat % min n.bytes 4 ≠ 0 then (List.range n.bytes).map fun k => (k, 1)
  else if n.bytes = 8 then [(0, 4), (4, 4)] else [(0, n.bytes)]

/-- The transfers of a read of n bytes. -/
def readTransfers (a : Addr) (n : Size) : List Transfer :=
  (transferParts a n).map fun p => .read (a + BitVec.ofNat 32 p.1) p.2

/-- The transfers of a write of these n bytes. -/
def writeTransfers (a : Addr) (n : Size) (bs : List Byte) : List Transfer :=
  (transferParts a n).map fun p => .write (a + BitVec.ofNat 32 p.1) ((bs.drop p.1).take p.2)

/-- Some byte of the transfer is no plain memory. -/
def reachesPlatform (c : Config) (t : Transfer) : Bool :=
  let reaches (a : Addr) (n : Nat) : Bool := (List.range n).any fun k => !isPlain c (a + BitVec.ofNat 32 k)
  match t with
  | .read a n => reaches a n
  | .write a bs => reaches a bs.length

/-- Present the platform with the transfers that reach it, each once and in their order (R70, R80). -/
def State.present (s : State) (ts : List Transfer) : State :=
  { s with presented := s.presented ++ ts.filter (reachesPlatform s.cfg) }

/-- The two refusals of R66 and R67, in their order: virtual memory (R78), then misalignment under `MISALIGNED` = refuse. -/
def accessCheck (s : State) (a : Addr) (n : Size) : Except Refusal Unit :=
  if s.sr.vm then .error .virtualMemoryNotSpecified
  else if s.cfg.misaligned = .refuse ∧ a.toNat % alignment s.cfg n ≠ 0 then .error .misalignedAccess
  else .ok ()

/-- `MemRead(addr, n)` (R66), the value zero-extended to 64 bits; `State.present` says what the platform sees of it. -/
def memRead (s : State) (a : Addr) (n : Size) : Except Refusal QWord :=
  (accessCheck s a n).map fun _ => joinBytes s.cfg.endian (s.readBytes a n.bytes)

/-- The state after the bytes of a write are stored where memory lies and presented where the platform does (R67, R71). -/
def State.storeBytes (s : State) (a : Addr) (n : Size) (bs : List Byte) : State :=
  { s with mem := s.mem.writeBytes (isPlain s.cfg) a bs }.present (writeTransfers a n bs)

/-- `MemWrite(addr, n, v)` (R67) of the low n bytes of `v`. -/
def memWrite (s : State) (a : Addr) (n : Size) (v : QWord) : Except Refusal State :=
  (accessCheck s a n).map fun _ => s.storeBytes a n (splitBytes s.cfg.endian n.bytes v)

/-! Registers (10_state.md). -/

/-- `XLEN` in bits (R7, R240). -/
def State.xlen (s : State) : Nat := if s.cfg.ext.q then 64 else 32

/-- The low `XLEN` bits of a value, zero-extended to the 64-bit container (log entry 13). -/
def State.clip (s : State) (v : QWord) : QWord := if s.cfg.ext.q then v else (v.setWidth 32).setWidth 64

/-- The registers that hold no state of their own: E0X, ESR and EPC (R22). -/
def isReadOnly (i : RegNum) : Bool := i == 0#5 || i == 25#5 || i == 31#5

/-- The place of a writable register in the bank: 1 to 24 at 0 to 23, 26 to 30 at 24 to 28. -/
def place (i : RegNum) : Fin 29 := Fin.ofNat 29 (if i.toNat < 25 then i.toNat - 1 else i.toNat - 2)

/-- SR.QWM, which reads 0 without `EXT_Q` (R42). -/
def State.qwm (s : State) : Bool := s.cfg.ext.q && s.sr.qwm

/-- SR.FPM, which reads 0 without `EXT_F` (R44). -/
def State.fpm (s : State) : Bool := s.cfg.ext.f && s.sr.fpm

/-- The nine bits of SR, bit i the status bit of number i (R28, R35). -/
def State.srBits (s : State) : BitVec 9 :=
  BitVec.ofBool s.fpm ++ BitVec.ofBool s.sr.km ++ BitVec.ofBool s.qwm ++ BitVec.ofBool s.sr.vm ++ BitVec.ofBool s.sr.ie
    ++ BitVec.ofBool s.sr.v ++ BitVec.ofBool s.sr.s ++ BitVec.ofBool s.sr.c ++ BitVec.ofBool s.sr.z

/-- The value of `EPC_READ_OFFSET` (R7). -/
def epcOffsetValue : EpcOffset → Addr
  | .zero => 0#32 | .four => 4#32 | .eight => 8#32

/-- What a read of EPC shows: the executing instruction's address plus the offset, modulo 2^32 (R29; log entry 15). -/
def State.epc (s : State) : Addr := s.pc + epcOffsetValue s.cfg.epcOffset

/-- `x[i]` (R23), in a 64-bit container. -/
def State.readReg (s : State) (i : RegNum) : QWord :=
  if i = 0#5 then 0#64
  else if i = 25#5 then s.srBits.setWidth 64
  else if i = 31#5 then s.epc.setWidth 64
  else s.clip s.regs[place i]

/-- `x[i] <- v` (R24): a write to E0X, ESR or EPC changes nothing. -/
def State.writeReg (s : State) (i : RegNum) (v : QWord) : State :=
  if isReadOnly i then s else { s with regs := s.regs.set (place i) (s.clip v) }

/-- ERT, the register an interrupt entry writes and URT reads (R26). -/
def ert : RegNum := 24#5

/-- `pc <- t`. -/
def State.jumpTo (s : State) (t : Addr) : State := { s with pc := t }

/-- `pc <- pc + n`, modulo 2^32 (R30, R32). -/
def State.advance (s : State) (n : Addr) : State := s.jumpTo (s.pc + n)

/-- The length in bytes of a 32-bit instruction (R30). -/
def shortLength : Addr := 4#32
/-- The length in bytes of a 64-bit instruction (R30). -/
def longLength : Addr := 8#32

/-! Status bits (46_status_urt.md). -/

/-- One status bit written. -/
def StatusRegister.put (r : StatusRegister) (b : StatusBit) (value : Bool) : StatusRegister :=
  match b with
  | .z => { r with z := value }
  | .c => { r with c := value }
  | .s => { r with s := value }
  | .v => { r with v := value }
  | .ie => { r with ie := value }
  | .vm => { r with vm := value }
  | .qwm => { r with qwm := value }
  | .km => { r with km := value }
  | .fpm => { r with fpm := value }

/-- `writable(b)`: whether SSB and CSB may change the bit (R233). -/
def State.writable (s : State) (b : StatusBit) : Bool :=
  match b with
  | .z | .c | .s | .v => true
  | .ie | .vm => s.sr.km
  | .qwm => s.sr.km && s.cfg.ext.q
  | .km => false
  | .fpm => s.cfg.ext.f

/-- What SSB and CSB do to a bit: write it where R233 allows, else nothing. -/
def State.putStatus (s : State) (b : StatusBit) (value : Bool) : State :=
  if s.writable b then { s with sr := s.sr.put b value } else s

/-! Outcomes. -/

/-- Continue with the value of an operation, or end in its refusal. -/
def orRefuse {α : Type} (x : Except Refusal α) (k : α → Host.Outcome State Fault Refusal) :
    Host.Outcome State Fault Refusal :=
  match x with
  | .ok a => k a
  | .error r => .refused r

/-! Interrupts (60_exceptions.md). -/

/-- The address of INT vector n (R72). -/
def vectorAddress (n : VectorNum) : Addr := 4#32 * n.setWidth 32

/-- The state after the entry of an interrupt with return address `ra` and handler address `target`: ERT, KM and the pc are
written and nothing else (R305). -/
def State.enter (s : State) (ra target : Addr) : State :=
  let s₁ := s.writeReg ert (ra.setWidth 64)
  { s₁ with sr := { s₁.sr with km := true }, pc := target }

/-- `raise Interrupt(n) with return address ra` (R305): the one entry, of INT and of hardware interrupts. The vector is read
in the state before the entry, and the platform presented with that read; if it is refused, so is the entry. -/
def raiseInterrupt (n : VectorNum) (ra : Addr) (s : State) : Host.Outcome State Fault Refusal :=
  orRefuse (memRead s (vectorAddress n) .dword) fun target =>
    .next ((s.present (readTransfers (vectorAddress n) .dword)).enter ra (target.setWidth 32))

/-- The return from an interrupt (R232, R312): `pc <- ERT`, `SR.KM <- 0`, nothing else. -/
def State.returnToUser (s : State) : State :=
  { s with pc := (s.readReg ert).setWidth 32, sr := { s.sr with km := false } }

/-- The interrupt check that begins a step (R300, R308): with IE = 1 the source is consulted once, which uses up one of its
answers; with IE = 0 it is not consulted and a request stays with the platform (R309; log entry 10). -/
def consult (s : State) : Option VectorNum × State :=
  if s.sr.ie then
    match s.requests with
    | [] => (none, s)
    | answer :: later => (answer, { s with requests := later })
  else (none, s)

/-! Fetch (20_memory.md R64, 30_encoding.md R92). -/

/-- One instruction word. A misaligned fetch has its own refusal (R31). -/
def fetchWord (s : State) (a : Addr) : Except Refusal DWord :=
  if s.sr.vm then .error .virtualMemoryNotSpecified
  else if s.cfg.misaligned = .refuse ∧ a.toNat % 4 ≠ 0 then .error .misalignedFetch
  else .ok ((joinBytes s.cfg.endian (s.readBytes a 4)).setWidth 32)

/-- The decoder's answer, an error being a reserved encoding (R112, R114). -/
def decodeOrRefuse (s : State) (ws : List DWord) : Except Refusal Instr :=
  match decode s.cfg.ext ws with
  | .ok i => .ok i
  | .error e => .error (.reservedEncoding e)

/-- The instruction at the pc: the opcode of the word at the pc decides whether the word at pc + 4 belongs to it (R92). -/
def fetch (s : State) : Except Refusal Instr :=
  match fetchWord s s.pc with
  | .error r => .error r
  | .ok w =>
    if longFormat s.cfg.ext w then
      match fetchWord s (s.pc + 4#32) with
      | .error r => .error r
      | .ok w' => decodeOrRefuse s [w, w']
    else decodeOrRefuse s [w]

/-- The transfers of the fetch of an instruction (R69): one word at the pc, and for a 64-bit instruction the word after it. -/
def fetchTransfers (pc : Addr) (i : Instr) : List Transfer :=
  readTransfers pc .dword ++ if i.isLong then readTransfers (pc + 4#32) .dword else []

/-- The state in which a fetched instruction executes: its fetch has been presented (R80). -/
def State.fetched (s : State) (i : Instr) : State := s.present (fetchTransfers s.pc i)

/-! Reset (70_reset_and_hazards.md). -/

/-- The state after the reset event, given the word at `RST_VEC`: KM = 1, the other control bits 0, what R50 calls "any value"
drawn from the free values, memory and the platform's requests kept (R50, R340, R341; log entry 16). -/
def State.afterReset (s : State) (start : Addr) : State :=
  let bit := Config.resetFlag s.draws
  { s with
    regs := Vector.ofFn fun k => s.clip (Config.resetRegister s.draws k.val)
    pc := start
    sr := { z := bit 0, c := bit 1, s := bit 2, v := bit 3, ie := false, vm := false, qwm := false, km := true, fpm := false }
    mc := if s.cfg.ext.m then s.clip (Config.resetMc s.draws) else 0#64
    draws := s.draws + 1 }

/-- The reset event, applied by the host to any state (R340, R341): the reset vector is read with VM = 0. It is no part of a
step (R300, R330). -/
def resetEvent (s : State) : Host.Outcome State Fault Refusal :=
  orRefuse (memRead { s with sr := { s.sr with vm := false } } s.cfg.rstVec .dword) fun start =>
    .next ((s.present (readTransfers s.cfg.rstVec .dword)).afterReset (start.setWidth 32))

end Sys2Proof.Machine
end

