-- ==== Sys2Proof/Machine/Operands.lean ====
section
/-! DEFINITION. The operand forms: registers and immediates at the operating width, effective addresses, jump targets and the
upper immediates of MVU (30_encoding.md R105, R107). -/

namespace Sys2Proof.Machine

/-- The operating width W of an ALU operation: 64 with `EXT_Q` and QWM = 1, else 32 (R11, R242). -/
def State.opWidth (s : State) : Nat := if s.qwm then 64 else 32

/-- A register operand: the low W bits of `x[i]` (R190). -/
def State.regOperand (s : State) (i : RegNum) : BitVec s.opWidth := (s.readReg i).setWidth s.opWidth

/-- An ALU immediate: zero-extended to 64 bits, then its low W bits (R105, R198, R243). -/
def State.immOperand (s : State) {n : Nat} (imm : BitVec n) : BitVec s.opWidth := (imm.setWidth 64).setWidth s.opWidth

/-- `ea = (x[A] + zext(IMM))[31:0]`, the address of a load or store (R65, R150, R252). -/
def State.effectiveAddress (s : State) (a : RegNum) {n : Nat} (imm : BitVec n) : Addr :=
  (s.readReg a + imm.setWidth 64).setWidth 32

/-- `(x[C] + sext(IMM))[31:0]`, the target of a jump (R170, R171, R261, R262). -/
def State.jumpTarget (s : State) (c : RegNum) {n : Nat} (imm : BitVec n) : Addr :=
  (s.readReg c + imm.signExtend 64).setWidth 32

/-- MVU's value: the immediate at bits 31:10, every other bit 0 (R145). -/
def upperImmediate (imm : BitVec 22) : QWord := (imm ++ 0#10 : DWord).setWidth 64

/-- MVU64's value: the immediate at bits 63:10, bits 9:0 zero (R251). -/
def upperImmediateLong (imm : BitVec 54) : QWord := (imm ++ 0#10 : QWord)

end Sys2Proof.Machine
end

