-- ==== Sys2Proof/Machine/Flags.lean ====
section
/-! DEFINITION. The arithmetic of the ALU operations at an operating width w, with the carry and overflow each gives, and the
write-back of a result with its flags (00_scope.md R12, 44_alu.md, 45_shifts.md, 48_ext_muldiv.md, 49_ext_fp.md). -/

namespace Sys2Proof.Machine

/-- The result of an integer ALU operation with the new SR.C and SR.V; Z and S follow from the result (R12). -/
structure AluOut (w : Nat) where
  r : BitVec w
  c : Bool
  v : Bool
deriving DecidableEq, Repr

/-- `addc(a, b, cin)` (R12): carry out, and signed overflow. -/
def addc {w : Nat} (a b : BitVec w) (cin : Bool) : AluOut w :=
  let sum := a.toNat + b.toNat + cin.toNat
  let r := BitVec.ofNat w sum
  { r := r, c := decide (2 ^ w ≤ sum), v := a.msb == b.msb && r.msb != a.msb }

/-- `subb(a, b, bin)` (R12): borrow out, and signed overflow. -/
def subb {w : Nat} (a b : BitVec w) (bin : Bool) : AluOut w :=
  let diff : Int := (a.toNat : Int) - b.toNat - bin.toNat
  let r := BitVec.ofInt w diff
  { r := r, c := decide (diff < 0), v := a.msb != b.msb && r.msb != a.msb }

/-- A bitwise operation has no carry out and no overflow (R195, R196, R197). -/
def bitwise {w : Nat} (r : BitVec w) : AluOut w := { r := r, c := false, v := false }

/-- A shift's carry is the last bit shifted out, its overflow 0 (R220). -/
def shifted {w : Nat} (r : BitVec w) (out : Bool) : AluOut w := { r := r, c := out, v := false }

/-- SHR: `r = {0, a[W-1:1]}` (R221). -/
def shiftRight {w : Nat} (a : BitVec w) : AluOut w := shifted (a >>> 1) (a.getLsbD 0)

/-- ASR: `r = {a[W-1], a[W-1:1]}` (R222). -/
def shiftRightArith {w : Nat} (a : BitVec w) : AluOut w := shifted (a.sshiftRight 1) (a.getLsbD 0)

/-- SRN: `r = {0b0000, a[W-1:4]}` (R223). -/
def nibbleRight {w : Nat} (a : BitVec w) : AluOut w := shifted (a >>> 4) (a.getLsbD 3)

/-- ROR: `r = {Cin, a[W-1:1]}`, a rotation through the carry (R224). -/
def rotateRight {w : Nat} (a : BitVec w) (cin : Bool) : AluOut w :=
  shifted ((a >>> 1) ||| (if cin then BitVec.twoPow w (w - 1) else 0#w)) (a.getLsbD 0)

/-- SLN: `r = {a[W-5:0], 0b0000}` (R225). -/
def nibbleLeft {w : Nat} (a : BitVec w) : AluOut w := shifted (a <<< 4) (a.getLsbD (w - 4))

/-- The exact signed product plus the signed carry in (R281, R282). -/
def exactProduct {w : Nat} (a b m : BitVec w) : Int := a.toInt * b.toInt + m.toInt

/-- The register result of MUL and MLC: the low half of the exact value (R281, R282). -/
def productLow {w : Nat} (a b m : BitVec w) : BitVec w := BitVec.ofInt w (exactProduct a b m)

/-- The signed high half, bits 2W-1 to W of the exact value (R283). -/
def productHigh {w : Nat} (a b m : BitVec w) : BitVec w := BitVec.ofInt w (exactProduct a b m / 2 ^ w)

/-- The unsigned high half, of the product and carry in read as unsigned integers (R283). -/
def productHighUnsigned {w : Nat} (a b m : BitVec w) : BitVec w := BitVec.ofNat w ((a.toNat * b.toNat + m.toNat) / 2 ^ w)

/-- The cases the division's result is not stated for: divisor 0, and the overflowing quotient (R286). -/
def divisionOpen {w : Nat} (a b : BitVec w) : Bool :=
  decide (b.toInt = 0) || (decide (a.toInt = -(2 ^ (w - 1))) && decide (b.toInt = -1))

/-- DIV outside those cases: the quotient rounded toward zero (R284). -/
def quotient {w : Nat} (a b : BitVec w) : BitVec w := BitVec.ofInt w (a.toInt.tdiv b.toInt)

/-- MOD outside those cases: the remainder with the sign of the dividend (R285). -/
def remainder {w : Nat} (a b : BitVec w) : BitVec w := BitVec.ofInt w (a.toInt.tmod b.toInt)

/-- The result of DIV or MOD, the stated one or, where `DivZero` is any value, the free value (R286; log entry 7). -/
def divisionResult {w : Nat} (draw : Nat) (stated : BitVec w → BitVec w → BitVec w) (a b : BitVec w) : BitVec w :=
  if divisionOpen a b then Config.anyDivision draw w a b else stated a b

/-! Write-back. -/

/-- Write Z, C, S and V; no other bit of SR changes (R37). -/
def State.writeFlags (s : State) (z c sign v : Bool) : State :=
  { s with sr := { s.sr with z := z, c := c, s := sign, v := v } }

/-- `x[C] <- zext(r)`, `set_zs(r)`, SR.C and SR.V (R12, R190, R220). -/
def State.writeAlu {w : Nat} (s : State) (c : RegNum) (out : AluOut w) : State :=
  (s.writeReg c (out.r.setWidth 64)).writeFlags (out.r == 0#w) out.c out.r.msb out.v

/-- `x[C] <- zext(r)` and the four flags a floating point operation answers (R290, R291). -/
def State.writeFloat {w : Nat} (s : State) (c : RegNum) (out : FpOut w) : State :=
  (s.writeReg c (out.r.setWidth 64)).writeFlags out.z out.c out.s out.v

/-- A floating point operation (R290, R291): refused where FpNumerics is none, else its answer written, then the pc advance. -/
def floatingStep (length : Addr) (c : RegNum) (s : State) {w : Nat} (out : FpOut w) : Host.Outcome State Fault Refusal :=
  match s.cfg.fp with
  | .none => .refused .floatingPointNotSpecified
  | .supplied => .next ((s.writeFloat c out).advance length)

/-- The name `FpNumerics.alu` knows an operation by: its opcode and function field (R291, R295). -/
structure AluKey where
  opcode : BitVec 5
  fn1 : BitVec 3
deriving DecidableEq, Repr

/-- An ALU operation on two operands (R190, R198, R220, R243): the integer operation, or `FpNumerics.alu` while FPM = 1
(R291); then the pc advance. Every operand is read from the state before. -/
def aluStep (key : AluKey) (length : Addr) (c : RegNum) (s : State) (a b : BitVec s.opWidth) (out : AluOut s.opWidth) :
    Host.Outcome State Fault Refusal :=
  if s.fpm then floatingStep length c s (Config.fpAlu key.opcode key.fn1 s.opWidth a b s.sr.c)
  else .next ((s.writeAlu c out).advance length)

/-- Record a free value's drawing (log entry 7). -/
def State.draw (s : State) : State := { s with draws := s.draws + 1 }

/-- The write-back of MUL, MLC, DIV and MOD: Z and S from the result, SR.C and SR.V any value (R280). -/
def State.writeMulDiv {w : Nat} (s : State) (c : RegNum) (r : BitVec w) : State :=
  (s.writeAlu c { r := r, c := Config.anyCarry s.draws, v := Config.anyOverflow s.draws }).draw

end Sys2Proof.Machine
end

