-- ==== Sys2Proof/Machine/Alu.lean ====
section
/-! DEFINITION. The arithmetic and logic instructions: register forms, opcode 00000, and immediate forms, opcode 00001
(44_alu.md). -/

namespace Sys2Proof.Machine

/-- The operation `FN 1` names under opcode 00000 (R190). -/
def aluKey (fn1 : BitVec 3) : AluKey := { opcode := 0b00000, fn1 := fn1 }

/-- The operation `FN 1` names under opcode 00001 (R198). -/
def aluImmKey (fn1 : BitVec 3) : AluKey := { opcode := 0b00001, fn1 := fn1 }

/-- A register form: operands A and B (R190). -/
def aluReg (fn1 : BitVec 3) (c a b : RegNum) (s : State) (out : AluOut s.opWidth) : Host.Outcome State Fault Refusal :=
  aluStep (aluKey fn1) shortLength c s (s.regOperand a) (s.regOperand b) out

/-- An immediate form: operand A and the zero-extended immediate (R198). -/
def aluImm (fn1 : BitVec 3) (c a : RegNum) (imm : BitVec 14) (s : State) (out : AluOut s.opWidth) :
    Host.Outcome State Fault Refusal :=
  aluStep (aluImmKey fn1) shortLength c s (s.regOperand a) (s.immOperand imm) out

/-- ADD (R191): `C = A + B`. -/
def execAdd (c a b : RegNum) (s : State) : Host.Outcome State Fault Refusal :=
  aluReg 0 c a b s (addc (s.regOperand a) (s.regOperand b) false)

/-- ADC (R192): `C = A + B + Cin`. -/
def execAdc (c a b : RegNum) (s : State) : Host.Outcome State Fault Refusal :=
  aluReg 1 c a b s (addc (s.regOperand a) (s.regOperand b) s.sr.c)

/-- SUB (R193): `C = A - B`. -/
def execSub (c a b : RegNum) (s : State) : Host.Outcome State Fault Refusal :=
  aluReg 2 c a b s (subb (s.regOperand a) (s.regOperand b) false)

/-- SBC (R194): `C = A - B - Cin`. -/
def execSbc (c a b : RegNum) (s : State) : Host.Outcome State Fault Refusal :=
  aluReg 3 c a b s (subb (s.regOperand a) (s.regOperand b) s.sr.c)

/-- AND (R195): `C = A & B`. -/
def execAnd (c a b : RegNum) (s : State) : Host.Outcome State Fault Refusal :=
  aluReg 4 c a b s (bitwise (s.regOperand a &&& s.regOperand b))

/-- OR (R196): `C = A | B`. -/
def execOr (c a b : RegNum) (s : State) : Host.Outcome State Fault Refusal :=
  aluReg 5 c a b s (bitwise (s.regOperand a ||| s.regOperand b))

/-- XOR (R197): `C = A ^ B`. -/
def execXor (c a b : RegNum) (s : State) : Host.Outcome State Fault Refusal :=
  aluReg 6 c a b s (bitwise (s.regOperand a ^^^ s.regOperand b))

/-- ADDI (R199): `C = A + IMM`. -/
def execAddi (c a : RegNum) (imm : BitVec 14) (s : State) : Host.Outcome State Fault Refusal :=
  aluImm 0 c a imm s (addc (s.regOperand a) (s.immOperand imm) false)

/-- ADCI (R200): `C = A + IMM + Cin`. -/
def execAdci (c a : RegNum) (imm : BitVec 14) (s : State) : Host.Outcome State Fault Refusal :=
  aluImm 1 c a imm s (addc (s.regOperand a) (s.immOperand imm) s.sr.c)

/-- SUBI (R201): `C = A - IMM`. -/
def execSubi (c a : RegNum) (imm : BitVec 14) (s : State) : Host.Outcome State Fault Refusal :=
  aluImm 2 c a imm s (subb (s.regOperand a) (s.immOperand imm) false)

/-- SBCI (R202): `C = A - IMM - Cin`. -/
def execSbci (c a : RegNum) (imm : BitVec 14) (s : State) : Host.Outcome State Fault Refusal :=
  aluImm 3 c a imm s (subb (s.regOperand a) (s.immOperand imm) s.sr.c)

/-- ANDI (R203): `C = A & IMM`. -/
def execAndi (c a : RegNum) (imm : BitVec 14) (s : State) : Host.Outcome State Fault Refusal :=
  aluImm 4 c a imm s (bitwise (s.regOperand a &&& s.immOperand imm))

/-- ORI (R204): `C = A | IMM`. -/
def execOri (c a : RegNum) (imm : BitVec 14) (s : State) : Host.Outcome State Fault Refusal :=
  aluImm 5 c a imm s (bitwise (s.regOperand a ||| s.immOperand imm))

/-- XORI (R205): `C = A ^ IMM`. -/
def execXori (c a : RegNum) (imm : BitVec 14) (s : State) : Host.Outcome State Fault Refusal :=
  aluImm 6 c a imm s (bitwise (s.regOperand a ^^^ s.immOperand imm))

end Sys2Proof.Machine
end

