-- ==== Sys2Proof/Machine/Jumps.lean ====
section
/-! DEFINITION. Jumps, opcodes 00100 and 00110 (43_jumps.md), with the conditional jump the wide forms share. A jump goes to
the address register plus immediate, not to a word stored there (90_conflicts.md C7); it writes no register and no flag. -/

namespace Sys2Proof.Machine

/-- A conditional jump (R171, R262): to the target where the condition holds, else past the instruction. -/
def condJump (taken : Bool) (length : Addr) (c : RegNum) {n : Nat} (imm : BitVec n) (s : State) :
    Host.Outcome State Fault Refusal :=
  .next (if taken then s.jumpTo (s.jumpTarget c imm) else s.advance length)

/-- JMP (R170): `PC = C + IMM`. -/
def execJmp (c : RegNum) (imm : BitVec 15) (s : State) : Host.Outcome State Fault Refusal :=
  .next (s.jumpTo (s.jumpTarget c imm))

/-- JZ (R172): if Z. -/
def execJz (c : RegNum) (imm : BitVec 19) (s : State) : Host.Outcome State Fault Refusal :=
  condJump s.sr.z shortLength c imm s

/-- JC (R173): if C. -/
def execJc (c : RegNum) (imm : BitVec 19) (s : State) : Host.Outcome State Fault Refusal :=
  condJump s.sr.c shortLength c imm s

/-- JS (R174): if S. -/
def execJs (c : RegNum) (imm : BitVec 19) (s : State) : Host.Outcome State Fault Refusal :=
  condJump s.sr.s shortLength c imm s

/-- JV (R175): if V. -/
def execJv (c : RegNum) (imm : BitVec 19) (s : State) : Host.Outcome State Fault Refusal :=
  condJump s.sr.v shortLength c imm s

/-- JNZ (R176): if !Z. -/
def execJnz (c : RegNum) (imm : BitVec 19) (s : State) : Host.Outcome State Fault Refusal :=
  condJump (!s.sr.z) shortLength c imm s

/-- JNC (R177): if !C. -/
def execJnc (c : RegNum) (imm : BitVec 19) (s : State) : Host.Outcome State Fault Refusal :=
  condJump (!s.sr.c) shortLength c imm s

/-- JNS (R178): if !S. -/
def execJns (c : RegNum) (imm : BitVec 19) (s : State) : Host.Outcome State Fault Refusal :=
  condJump (!s.sr.s) shortLength c imm s

/-- JNV (R179): if !V. -/
def execJnv (c : RegNum) (imm : BitVec 19) (s : State) : Host.Outcome State Fault Refusal :=
  condJump (!s.sr.v) shortLength c imm s

end Sys2Proof.Machine
end

