-- ==== Sys2Proof/Machine/LoadStore.lean ====
section
/-! DEFINITION. Stores and loads, opcodes 01000 and 01001 (42_load_store.md), with the access the wide forms share. -/

namespace Sys2Proof.Machine

/-- A store of the low bytes of `x[C]` at `ea`, then the pc advance (R150). A refused access changes nothing. -/
def storeStep (n : Size) (length : Addr) (c : RegNum) (ea : Addr) (s : State) : Host.Outcome State Fault Refusal :=
  orRefuse (memWrite s ea n (s.readReg c)) fun t => .next (t.advance length)

/-- A load of the zero-extended value at `ea` into `x[C]`, then the pc advance (R150, R155). The read is made whatever the
destination, and presented once (R70). -/
def loadStep (n : Size) (length : Addr) (c : RegNum) (ea : Addr) (s : State) : Host.Outcome State Fault Refusal :=
  orRefuse (memRead s ea n) fun v =>
    .next (((s.present (readTransfers ea n)).writeReg c v).advance length)

/-- STB (R151): `[A + IMM] = C [7:0]`. -/
def execStb (c a : RegNum) (imm : BitVec 15) (s : State) : Host.Outcome State Fault Refusal :=
  storeStep .byte shortLength c (s.effectiveAddress a imm) s

/-- STW (R152): `[A + IMM] = C [15:0]`. -/
def execStw (c a : RegNum) (imm : BitVec 15) (s : State) : Host.Outcome State Fault Refusal :=
  storeStep .word shortLength c (s.effectiveAddress a imm) s

/-- STD (R153): `[A + IMM] = C [31:0]`. -/
def execStd (c a : RegNum) (imm : BitVec 15) (s : State) : Host.Outcome State Fault Refusal :=
  storeStep .dword shortLength c (s.effectiveAddress a imm) s

/-- STQ (R154): `[A + IMM] = C [63:0]`. Only with `EXT_Q`; the two 4-byte transfers (R69) are one step here. -/
def execStq (c a : RegNum) (imm : BitVec 15) (s : State) : Host.Outcome State Fault Refusal :=
  storeStep .qword shortLength c (s.effectiveAddress a imm) s

/-- LDB (R155): `C[7:0] = [A + IMM]`. The bits above are written 0. -/
def execLdb (c a : RegNum) (imm : BitVec 15) (s : State) : Host.Outcome State Fault Refusal :=
  loadStep .byte shortLength c (s.effectiveAddress a imm) s

/-- LDW (R156): `C[15:0] = [A + IMM]`. The bits above are written 0. -/
def execLdw (c a : RegNum) (imm : BitVec 15) (s : State) : Host.Outcome State Fault Refusal :=
  loadStep .word shortLength c (s.effectiveAddress a imm) s

/-- LDD (R157): `C[31:0] = [A + IMM]`. The bits above are written 0. -/
def execLdd (c a : RegNum) (imm : BitVec 15) (s : State) : Host.Outcome State Fault Refusal :=
  loadStep .dword shortLength c (s.effectiveAddress a imm) s

/-- LDQ (R158): `C[63:0] = [A + IMM]`. Only with `EXT_Q`. -/
def execLdq (c a : RegNum) (imm : BitVec 15) (s : State) : Host.Outcome State Fault Refusal :=
  loadStep .qword shortLength c (s.effectiveAddress a imm) s

end Sys2Proof.Machine
end

