-- ==== Sys2Proof/Machine/Ext64.lean ====
section
/-! DEFINITION. The instructions of 64 bits of the 64-bit extension, opcodes 10000 to 10101 (47_ext64.md). Each has the
meaning of its 32-bit form with a wider immediate and a pc advance of 8; none needs QWM = 1 (R272). -/

namespace Sys2Proof.Machine

/-- The operation `FN 1` names under opcode 10000 (R243). -/
def aluLongKey (fn1 : BitVec 3) : AluKey := { opcode := 0b10000, fn1 := fn1 }

/-- A wide immediate form: operand A and the zero-extended 46-bit immediate, of which W = 32 uses the low 32 bits (R243). -/
def aluLong (fn1 : BitVec 3) (c a : RegNum) (imm : BitVec 46) (s : State) (out : AluOut s.opWidth) :
    Host.Outcome State Fault Refusal :=
  aluStep (aluLongKey fn1) longLength c s (s.regOperand a) (s.immOperand imm) out

/-- ADDI64 (R244): `C = A + IMM`. -/
def execAddi64 (c a : RegNum) (imm : BitVec 46) (s : State) : Host.Outcome State Fault Refusal :=
  aluLong 0 c a imm s (addc (s.regOperand a) (s.immOperand imm) false)

/-- ADCI64 (R245): `C = A + IMM + Cin`. -/
def execAdci64 (c a : RegNum) (imm : BitVec 46) (s : State) : Host.Outcome State Fault Refusal :=
  aluLong 1 c a imm s (addc (s.regOperand a) (s.immOperand imm) s.sr.c)

/-- SUBI64 (R246): `C = A - IMM`. -/
def execSubi64 (c a : RegNum) (imm : BitVec 46) (s : State) : Host.Outcome State Fault Refusal :=
  aluLong 2 c a imm s (subb (s.regOperand a) (s.immOperand imm) false)

/-- SBCI64 (R247): `C = A - IMM - Cin`. -/
def execSbci64 (c a : RegNum) (imm : BitVec 46) (s : State) : Host.Outcome State Fault Refusal :=
  aluLong 3 c a imm s (subb (s.regOperand a) (s.immOperand imm) s.sr.c)

/-- ANDI64 (R248): `C = A & IMM`. -/
def execAndi64 (c a : RegNum) (imm : BitVec 46) (s : State) : Host.Outcome State Fault Refusal :=
  aluLong 4 c a imm s (bitwise (s.regOperand a &&& s.immOperand imm))

/-- ORI64 (R249): `C = A | IMM`. -/
def execOri64 (c a : RegNum) (imm : BitVec 46) (s : State) : Host.Outcome State Fault Refusal :=
  aluLong 5 c a imm s (bitwise (s.regOperand a ||| s.immOperand imm))

/-- XORI64 (R250): `C = A ^ IMM`. -/
def execXori64 (c a : RegNum) (imm : BitVec 46) (s : State) : Host.Outcome State Fault Refusal :=
  aluLong 6 c a imm s (bitwise (s.regOperand a ^^^ s.immOperand imm))

/-- MVU64 (R251): bits 63:10 of `x[C]` become the immediate, bits 9:0 zero (90_conflicts.md C12). -/
def execMvu64 (c : RegNum) (imm : BitVec 54) (s : State) : Host.Outcome State Fault Refusal :=
  .next ((s.writeReg c (upperImmediateLong imm)).advance longLength)

/-- LDB64 (R256). -/
def execLdb64 (c a : RegNum) (imm : BitVec 47) (s : State) : Host.Outcome State Fault Refusal :=
  loadStep .byte longLength c (s.effectiveAddress a imm) s

/-- LDW64 (R255). -/
def execLdw64 (c a : RegNum) (imm : BitVec 47) (s : State) : Host.Outcome State Fault Refusal :=
  loadStep .word longLength c (s.effectiveAddress a imm) s

/-- LDD64 (R254). -/
def execLdd64 (c a : RegNum) (imm : BitVec 47) (s : State) : Host.Outcome State Fault Refusal :=
  loadStep .dword longLength c (s.effectiveAddress a imm) s

/-- LDQ64 (R253). -/
def execLdq64 (c a : RegNum) (imm : BitVec 47) (s : State) : Host.Outcome State Fault Refusal :=
  loadStep .qword longLength c (s.effectiveAddress a imm) s

/-- STB64 (R260). -/
def execStb64 (c a : RegNum) (imm : BitVec 47) (s : State) : Host.Outcome State Fault Refusal :=
  storeStep .byte longLength c (s.effectiveAddress a imm) s

/-- STW64 (R259). -/
def execStw64 (c a : RegNum) (imm : BitVec 47) (s : State) : Host.Outcome State Fault Refusal :=
  storeStep .word longLength c (s.effectiveAddress a imm) s

/-- STD64 (R258). -/
def execStd64 (c a : RegNum) (imm : BitVec 47) (s : State) : Host.Outcome State Fault Refusal :=
  storeStep .dword longLength c (s.effectiveAddress a imm) s

/-- STQ64 (R257). -/
def execStq64 (c a : RegNum) (imm : BitVec 47) (s : State) : Host.Outcome State Fault Refusal :=
  storeStep .qword longLength c (s.effectiveAddress a imm) s

/-- JMP64 (R261). -/
def execJmp64 (c : RegNum) (imm : BitVec 54) (s : State) : Host.Outcome State Fault Refusal :=
  .next (s.jumpTo (s.jumpTarget c imm))

/-- JZ64 (R263): if Z. -/
def execJz64 (c : RegNum) (imm : BitVec 51) (s : State) : Host.Outcome State Fault Refusal :=
  condJump s.sr.z longLength c imm s

/-- JC64 (R264): if C. -/
def execJc64 (c : RegNum) (imm : BitVec 51) (s : State) : Host.Outcome State Fault Refusal :=
  condJump s.sr.c longLength c imm s

/-- JS64 (R265): if S. -/
def execJs64 (c : RegNum) (imm : BitVec 51) (s : State) : Host.Outcome State Fault Refusal :=
  condJump s.sr.s longLength c imm s

/-- JV64 (R266): if V. -/
def execJv64 (c : RegNum) (imm : BitVec 51) (s : State) : Host.Outcome State Fault Refusal :=
  condJump s.sr.v longLength c imm s

/-- JNZ64 (R267): if !Z. -/
def execJnz64 (c : RegNum) (imm : BitVec 51) (s : State) : Host.Outcome State Fault Refusal :=
  condJump (!s.sr.z) longLength c imm s

/-- JNC64 (R268): if !C. -/
def execJnc64 (c : RegNum) (imm : BitVec 51) (s : State) : Host.Outcome State Fault Refusal :=
  condJump (!s.sr.c) longLength c imm s

/-- JNS64 (R269): if !S. -/
def execJns64 (c : RegNum) (imm : BitVec 51) (s : State) : Host.Outcome State Fault Refusal :=
  condJump (!s.sr.s) longLength c imm s

/-- JNV64 (R270): if !V. -/
def execJnv64 (c : RegNum) (imm : BitVec 51) (s : State) : Host.Outcome State Fault Refusal :=
  condJump (!s.sr.v) longLength c imm s

end Sys2Proof.Machine
end

