-- ==== Sys2Proof/Machine/Float.lean ====
section
/-! DEFINITION. The floating point extension, opcode 10111 (49_ext_fp.md). The result and the four flags are `FpNumerics`'
(R290, R295; log entry 8), and without FpNumerics the three are refused; they execute with either value of FPM (R290). -/

namespace Sys2Proof.Machine

/-- ITF (R292): integer to float. -/
def execItf (c a : RegNum) (s : State) : Host.Outcome State Fault Refusal :=
  floatingStep shortLength c s (Config.fpItf s.opWidth (s.regOperand a))

/-- FTI (R293): float to integer. -/
def execFti (c a : RegNum) (s : State) : Host.Outcome State Fault Refusal :=
  floatingStep shortLength c s (Config.fpFti s.opWidth (s.regOperand a))

/-- SQR (R294): square root. -/
def execSqr (c a : RegNum) (s : State) : Host.Outcome State Fault Refusal :=
  floatingStep shortLength c s (Config.fpSqr s.opWidth (s.regOperand a))

end Sys2Proof.Machine
end

