-- ==== Sys2Proof/Machine/MulDiv.lean ====
section
/-! DEFINITION. The MUL/DIV extension, opcode 10110 (48_ext_muldiv.md). While FPM = 1 its four instructions are handed to
`FpNumerics.alu` like every other integer ALU operation (R287, R291); MC is then left alone (log entry 9). -/

namespace Sys2Proof.Machine

/-- The operation `FN 1` names under opcode 10110 (R280). -/
def mulDivKey (fn1 : BitVec 3) : AluKey := { opcode := 0b10110, fn1 := fn1 }

/-- One of the four while FPM = 1 (R287, R291). -/
def mulDivFloat (fn1 : BitVec 3) (c a b : RegNum) (s : State) : Host.Outcome State Fault Refusal :=
  floatingStep shortLength c s
    (Config.fpAlu (mulDivKey fn1).opcode fn1 s.opWidth (s.regOperand a) (s.regOperand b) s.sr.c)

/-- The multiplication carry in: MC[W-1:0] (R282). -/
def State.mulCarryIn (s : State) : BitVec s.opWidth := s.mc.setWidth s.opWidth

/-- `MulCarryOut(a, b, m)` (R283): MC after MUL, and after MLC where `withCarryIn`, W bits zero-extended. -/
def State.mulCarryOut (s : State) (withCarryIn : Bool) (x y m : BitVec s.opWidth) : QWord :=
  match s.cfg.mulCarry with
  | .signedHigh => (productHigh x y m).setWidth 64
  | .unsignedHigh => (productHighUnsigned x y m).setWidth 64
  | .mlcOnly => if withCarryIn then (productHigh x y m).setWidth 64 else s.mc
  | .platform => (Config.mulCarryOut s.opWidth x y m).setWidth 64

/-- A multiplication with carry in `m` (R281, R282): the low half to `x[C]`, the carry out to MC (R283). -/
def multiplyStep (fn1 : BitVec 3) (withCarryIn : Bool) (c a b : RegNum) (s : State) (m : BitVec s.opWidth) :
    Host.Outcome State Fault Refusal :=
  let x := s.regOperand a
  let y := s.regOperand b
  if s.fpm then mulDivFloat fn1 c a b s
  else .next ({ s.writeMulDiv c (productLow x y m) with mc := s.mulCarryOut withCarryIn x y m }.advance shortLength)

/-- A division, its result `stated` where the spec states one (R284, R285); elsewhere refused under `DivZero` = refuse, else
any value (R286). MC is not written. -/
def divideStep (fn1 : BitVec 3) (c a b : RegNum) (s : State)
    (stated : BitVec s.opWidth → BitVec s.opWidth → BitVec s.opWidth) : Host.Outcome State Fault Refusal :=
  let x := s.regOperand a
  let y := s.regOperand b
  if s.fpm then mulDivFloat fn1 c a b s
  else if divisionOpen x y ∧ s.cfg.divZero = .refuse then .refused .divisionResultNotSpecified
  else .next ((s.writeMulDiv c (divisionResult s.draws stated x y)).advance shortLength)

/-- MUL (R281): `C = A * B`. -/
def execMul (c a b : RegNum) (s : State) : Host.Outcome State Fault Refusal :=
  multiplyStep 0 false c a b s 0#s.opWidth

/-- MLC (R282): `C = A * B + Carry in`, the carry in being MC. -/
def execMlc (c a b : RegNum) (s : State) : Host.Outcome State Fault Refusal :=
  multiplyStep 1 true c a b s s.mulCarryIn

/-- DIV (R284): `C = A / B`, rounded toward zero. -/
def execDiv (c a b : RegNum) (s : State) : Host.Outcome State Fault Refusal :=
  divideStep 2 c a b s quotient

/-- MOD (R285): `C = A % B`, the remainder of that division. -/
def execMod (c a b : RegNum) (s : State) : Host.Outcome State Fault Refusal :=
  divideStep 4 c a b s remainder

end Sys2Proof.Machine
end

