-- ==== Sys2Proof/Machine/Shifts.lean ====
section
/-! DEFINITION. The shifts and the rotation, opcode 00010 (45_shifts.md). -/

namespace Sys2Proof.Machine

/-- The operation `FN 1` names under opcode 00010 (R220). -/
def shiftKey (fn1 : BitVec 3) : AluKey := { opcode := 0b00010, fn1 := fn1 }

/-- A shift of operand A (R220). It has no second operand; `FpNumerics.alu` is given 0 for it (log entry 9). -/
def shiftReg (fn1 : BitVec 3) (c a : RegNum) (s : State) (out : AluOut s.opWidth) : Host.Outcome State Fault Refusal :=
  aluStep (shiftKey fn1) shortLength c s (s.regOperand a) 0#s.opWidth out

/-- SHR (R221): `C = A >> 1`. -/
def execShr (c a : RegNum) (s : State) : Host.Outcome State Fault Refusal :=
  shiftReg 0 c a s (shiftRight (s.regOperand a))

/-- ASR (R222): `C = A >>> 1`. -/
def execAsr (c a : RegNum) (s : State) : Host.Outcome State Fault Refusal :=
  shiftReg 1 c a s (shiftRightArith (s.regOperand a))

/-- SRN (R223): `C = A >> 4`. -/
def execSrn (c a : RegNum) (s : State) : Host.Outcome State Fault Refusal :=
  shiftReg 2 c a s (nibbleRight (s.regOperand a))

/-- ROR (R224): `C = Cin >> A >> 1`. -/
def execRor (c a : RegNum) (s : State) : Host.Outcome State Fault Refusal :=
  shiftReg 3 c a s (rotateRight (s.regOperand a) s.sr.c)

/-- SLN (R225): `C = A << 4`. -/
def execSln (c a : RegNum) (s : State) : Host.Outcome State Fault Refusal :=
  shiftReg 4 c a s (nibbleLeft (s.regOperand a))

end Sys2Proof.Machine
end

