-- ==== Sys2Proof/Machine/System.lean ====
section
/-! DEFINITION. MVU (41_mvu.md), the software interrupt INT (40_int.md), the status bit instructions SSB and CSB and the
return URT (46_status_urt.md). -/

namespace Sys2Proof.Machine

/-- MVU (R145): `DEST [31:10] = IMMEDIATE`, every other bit 0. No flag is written. -/
def execMvu (c : RegNum) (imm : BitVec 22) (s : State) : Host.Outcome State Fault Refusal :=
  .next ((s.writeReg c (upperImmediate imm)).advance shortLength)

/-- INT (R140): takes the interrupt of vector `table`, in either mode and whatever IE is; the return address is the
instruction after it. -/
def execInt (table : VectorNum) (s : State) : Host.Outcome State Fault Refusal :=
  raiseInterrupt table (s.pc + shortLength) s

/-- SSB (R230): sets the bit where R233 allows it, else changes nothing; the pc advances. -/
def execSsb (bit : StatusBit) (s : State) : Host.Outcome State Fault Refusal :=
  .next ((s.putStatus bit true).advance shortLength)

/-- CSB (R231): clears the bit where R233 allows it, else changes nothing; the pc advances. -/
def execCsb (bit : StatusBit) (s : State) : Host.Outcome State Fault Refusal :=
  .next ((s.putStatus bit false).advance shortLength)

/-- URT (R232): `pc <- ERT`, `SR.KM <- 0`, in either mode. -/
def execUrt (s : State) : Host.Outcome State Fault Refusal :=
  .next s.returnToUser

end Sys2Proof.Machine
end

