-- ==== Sys2Proof/Machine/Dispatch.lean ====
section
/-! DEFINITION. The dispatch: one arm for each instruction. -/

namespace Sys2Proof.Machine

def exec (i : Instr) (s : State) : Host.Outcome State Fault Refusal :=
  match i with
  -- opcode 00000, format 5
  | .add c a b => Sys2Proof.Machine.execAdd c a b s
  | .adc c a b => Sys2Proof.Machine.execAdc c a b s
  | .sub c a b => Sys2Proof.Machine.execSub c a b s
  | .sbc c a b => Sys2Proof.Machine.execSbc c a b s
  | .and c a b => Sys2Proof.Machine.execAnd c a b s
  | .or c a b => Sys2Proof.Machine.execOr c a b s
  | .xor c a b => Sys2Proof.Machine.execXor c a b s
  -- opcode 00001, format 6
  | .addi c a imm => Sys2Proof.Machine.execAddi c a imm s
  | .adci c a imm => Sys2Proof.Machine.execAdci c a imm s
  | .subi c a imm => Sys2Proof.Machine.execSubi c a imm s
  | .sbci c a imm => Sys2Proof.Machine.execSbci c a imm s
  | .andi c a imm => Sys2Proof.Machine.execAndi c a imm s
  | .ori c a imm => Sys2Proof.Machine.execOri c a imm s
  | .xori c a imm => Sys2Proof.Machine.execXori c a imm s
  -- opcode 00010, format 7
  | .shr c a => Sys2Proof.Machine.execShr c a s
  | .asr c a => Sys2Proof.Machine.execAsr c a s
  | .srn c a => Sys2Proof.Machine.execSrn c a s
  | .ror c a => Sys2Proof.Machine.execRor c a s
  | .sln c a => Sys2Proof.Machine.execSln c a s
  -- opcode 00100, format 3
  | .jmp c imm => Sys2Proof.Machine.execJmp c imm s
  -- opcode 00110, format 4
  | .jz c imm => Sys2Proof.Machine.execJz c imm s
  | .jc c imm => Sys2Proof.Machine.execJc c imm s
  | .js c imm => Sys2Proof.Machine.execJs c imm s
  | .jv c imm => Sys2Proof.Machine.execJv c imm s
  | .jnz c imm => Sys2Proof.Machine.execJnz c imm s
  | .jnc c imm => Sys2Proof.Machine.execJnc c imm s
  | .jns c imm => Sys2Proof.Machine.execJns c imm s
  | .jnv c imm => Sys2Proof.Machine.execJnv c imm s
  -- opcodes 01000 and 01001, format 3
  | .stb c a imm => Sys2Proof.Machine.execStb c a imm s
  | .stw c a imm => Sys2Proof.Machine.execStw c a imm s
  | .std c a imm => Sys2Proof.Machine.execStd c a imm s
  | .stq c a imm => Sys2Proof.Machine.execStq c a imm s
  | .ldb c a imm => Sys2Proof.Machine.execLdb c a imm s
  | .ldw c a imm => Sys2Proof.Machine.execLdw c a imm s
  | .ldd c a imm => Sys2Proof.Machine.execLdd c a imm s
  | .ldq c a imm => Sys2Proof.Machine.execLdq c a imm s
  -- opcode 01010, format 2
  | .mvu c imm => Sys2Proof.Machine.execMvu c imm s
  -- opcode 01011, format 1
  | .int table => Sys2Proof.Machine.execInt table s
  -- opcode 01110, format 9
  | .ssb bit => Sys2Proof.Machine.execSsb bit s
  | .csb bit => Sys2Proof.Machine.execCsb bit s
  -- opcode 01111, format 8
  | .urt => Sys2Proof.Machine.execUrt s
  -- opcode 10000, format 13, 64 bits
  | .addi64 c a imm => Sys2Proof.Machine.execAddi64 c a imm s
  | .adci64 c a imm => Sys2Proof.Machine.execAdci64 c a imm s
  | .subi64 c a imm => Sys2Proof.Machine.execSubi64 c a imm s
  | .sbci64 c a imm => Sys2Proof.Machine.execSbci64 c a imm s
  | .andi64 c a imm => Sys2Proof.Machine.execAndi64 c a imm s
  | .ori64 c a imm => Sys2Proof.Machine.execOri64 c a imm s
  | .xori64 c a imm => Sys2Proof.Machine.execXori64 c a imm s
  -- opcode 10001, format 10, 64 bits
  | .mvu64 c imm => Sys2Proof.Machine.execMvu64 c imm s
  -- opcode 10010, format 11, 64 bits
  | .ldb64 c a imm => Sys2Proof.Machine.execLdb64 c a imm s
  | .ldw64 c a imm => Sys2Proof.Machine.execLdw64 c a imm s
  | .ldd64 c a imm => Sys2Proof.Machine.execLdd64 c a imm s
  | .ldq64 c a imm => Sys2Proof.Machine.execLdq64 c a imm s
  -- opcode 10011, format 11, 64 bits
  | .stb64 c a imm => Sys2Proof.Machine.execStb64 c a imm s
  | .stw64 c a imm => Sys2Proof.Machine.execStw64 c a imm s
  | .std64 c a imm => Sys2Proof.Machine.execStd64 c a imm s
  | .stq64 c a imm => Sys2Proof.Machine.execStq64 c a imm s
  -- opcode 10100, format 10, 64 bits
  | .jmp64 c imm => Sys2Proof.Machine.execJmp64 c imm s
  -- opcode 10101, format 12, 64 bits
  | .jz64 c imm => Sys2Proof.Machine.execJz64 c imm s
  | .jc64 c imm => Sys2Proof.Machine.execJc64 c imm s
  | .js64 c imm => Sys2Proof.Machine.execJs64 c imm s
  | .jv64 c imm => Sys2Proof.Machine.execJv64 c imm s
  | .jnz64 c imm => Sys2Proof.Machine.execJnz64 c imm s
  | .jnc64 c imm => Sys2Proof.Machine.execJnc64 c imm s
  | .jns64 c imm => Sys2Proof.Machine.execJns64 c imm s
  | .jnv64 c imm => Sys2Proof.Machine.execJnv64 c imm s
  -- opcode 10110, format 5
  | .mul c a b => Sys2Proof.Machine.execMul c a b s
  | .mlc c a b => Sys2Proof.Machine.execMlc c a b s
  | .div c a b => Sys2Proof.Machine.execDiv c a b s
  | .mod c a b => Sys2Proof.Machine.execMod c a b s
  -- opcode 10111, format 5, B unused
  | .itf c a => Sys2Proof.Machine.execItf c a s
  | .fti c a => Sys2Proof.Machine.execFti c a s
  | .sqr c a => Sys2Proof.Machine.execSqr c a s

end Sys2Proof.Machine
end

