-- ==== Sys2Proof/Machine/Step.lean ====
section
/-! DEFINITION. One step (R300): the interrupt check, then the fetch, then the instruction. -/

namespace Sys2Proof.Machine

/-- The step of R300. An interrupt is taken between instructions only, with the address of the instruction not yet executed
as its return address. -/
def step (s : State) : Host.Outcome State Fault Refusal :=
  match consult s with
  | (some n, t) => raiseInterrupt n t.pc t
  | (none, t) => orRefuse (fetch t) fun i => exec i (t.fetched i)

/-- The state with an instruction of the opcode table stored where the next step fetches: at the pc, in the machine's byte
order, eight bytes, those above the row's bits zero. -/
def State.withFetchWord (s : State) (nbits w : Nat) : State :=
  { s with mem := s.mem.writeBytes (isPlain s.cfg) s.pc (bytesOfWords s.cfg.endian (tableWords nbits w)) }

end Sys2Proof.Machine
end

