-- ==== Sys2Proof/Safety.lean ====
section
/-! DEFINITION. The terms the claims use: when an access is allowed, the invariant of the state, what an instruction changes
and what it leaves unchanged, and a run that never stops. -/

namespace Sys2Proof.Machine

/-! Accesses. -/

/-- A data access the processor performs: no virtual memory, and aligned or done byte by byte (R66, R68, R78). -/
def accessAllowed (s : State) (a : Addr) (n : Size) : Prop :=
  s.sr.vm = false ∧ (s.cfg.misaligned = .bytewise ∨ a.toNat % alignment s.cfg n = 0)

/-- The alignment an access needs under `MISALIGNED` = refuse, as R66 words it, with D40's 8 for eight bytes (log entry 3). -/
def requiredAlignment (s : State) (n : Size) : Nat :=
  if n = .qword ∧ s.cfg.quadAlignment = .eight then 8 else min n.bytes 4

/-- A fetch the processor performs (R31, R78). -/
def fetchAllowed (s : State) (a : Addr) : Prop :=
  s.sr.vm = false ∧ (s.cfg.misaligned = .bytewise ∨ a.toNat % 4 = 0)

/-- The n bytes at `a` are plain memory: no byte of the access reaches the platform (R71). -/
def inMemory (s : State) (a : Addr) (n : Nat) : Prop := ∀ k < n, isPlain s.cfg (a + BitVec.ofNat 32 k) = true

/-- The n bytes of an access at rising addresses, modulo 2^32 (R66). -/
def bytesAt (s : State) (a : Addr) (n : Nat) : List Byte :=
  (List.range n).map fun k => s.byteAt (a + BitVec.ofNat 32 k)

/-- Which byte of an n-byte value, counted from the least significant, lies at address + k (R63). -/
def byteOrder (e : Endian) (n k : Nat) : Nat :=
  match e with
  | .little => k
  | .big => n - 1 - k

/-- The number the n bytes at rising addresses stand for, in the machine's byte order (R63, R66). -/
def valueAt (s : State) (a : Addr) (n : Nat) : Nat :=
  ((List.range n).map fun k => (s.byteAt (a + BitVec.ofNat 32 k)).toNat * 256 ^ byteOrder s.cfg.endian n k).sum

/-- The double-word at an address: an instruction word, or the address a vector holds (R64, R74). -/
def wordAt (s : State) (a : Addr) : DWord := BitVec.ofNat 32 (valueAt s a 4)

/-- Byte k of a value, bits 8k + 7 to 8k. -/
def byteOf (v : QWord) (k : Nat) : Byte := v.extractLsb' (8 * k) 8

/-- The address `b` lies outside the n bytes stored at `a` (addresses modulo 2^32). -/
def outside (a b : Addr) (n : Nat) : Prop := ∀ k < n, b ≠ a + BitVec.ofNat 32 k

/-! The invariant. -/

/-- What the spec says of every state of a processor: memory in its canonical form; without `EXT_Q` the registers and MC have
32 bits (R20, R45) and QWM does not exist (R42); without `EXT_F` FPM does not exist (R44); without `EXT_M` MC does not exist
(R45). -/
structure State.WellFormed (s : State) : Prop where
  memory : s.mem.wf
  registers : s.cfg.ext.q = false → ∀ k : Fin 29, s.regs[k].toNat < 2 ^ 32
  carry : s.cfg.ext.q = false → s.mc.toNat < 2 ^ 32
  noQwm : s.cfg.ext.q = false → s.sr.qwm = false
  noFpm : s.cfg.ext.f = false → s.sr.fpm = false
  noMc : s.cfg.ext.m = false → s.mc = 0#64

/-! Operands and outcomes. -/

/-- The instruction answers a next state, and that state is as `P` says. -/
def completes (i : Instr) (s : State) (P : State → Prop) : Prop := ∃ t, exec i s = .next t ∧ P t

/-- A register operand at the operating width: the low W bits (R190). -/
def operand (s : State) (r : RegNum) : BitVec s.opWidth := BitVec.ofNat s.opWidth (s.readReg r).toNat

/-- An ALU immediate at the operating width: unsigned, its low W bits (R198, R243). -/
def immediate (s : State) {n : Nat} (imm : BitVec n) : BitVec s.opWidth := BitVec.ofNat s.opWidth imm.toNat

/-- The address a jump goes to: register plus signed immediate, modulo 2^32 (R170, R171, R261, R262). -/
def jumpAddress (s : State) (c : RegNum) {n : Nat} (imm : BitVec n) : Addr :=
  BitVec.ofInt 32 ((s.readReg c).toNat + imm.toInt)

/-! Frames. ESR and EPC, numbers 25 and 31, are views of SR and of the pc and are spoken of there. -/

/-- Register `c` reads `v` afterwards and every other register as before; a register that discards writes reads as before
(R24). -/
def writesReg (c : RegNum) (v : QWord) (s t : State) : Prop :=
  ∀ r, r ≠ 25#5 → r ≠ 31#5 → t.readReg r = if r = c ∧ isReadOnly c = false then v else s.readReg r

/-- Every register reads as before. -/
def keepsRegs (s t : State) : Prop := ∀ r, r ≠ 25#5 → r ≠ 31#5 → t.readReg r = s.readReg r

/-- Every byte of memory reads as before. -/
def keepsMemory (s t : State) : Prop := ∀ a, t.mem.read a = s.mem.read a

/-- Every byte of memory outside the n bytes at `a`, and every byte of `a`'s that is no plain memory, reads as before. -/
def keepsMemoryOutside (a : Addr) (n : Nat) (s t : State) : Prop :=
  ∀ b : Addr, outside a b n ∨ isPlain s.cfg b = false → t.mem.read b.toNat = s.mem.read b.toNat

/-- The platform has been presented with those of the transfers that reach it, once and in order, and with nothing else (R70,
R71, R80). -/
def presents (ts : List Transfer) (s t : State) : Prop := t.presented = s.presented ++ ts.filter (reachesPlatform s.cfg)

/-- The parameters, the platform's requests and the count of free values are as before. -/
def keepsParameters (s t : State) : Prop := t.cfg = s.cfg ∧ t.requests = s.requests ∧ t.draws = s.draws

/-- The parameters, the platform's requests, the count of free values and the transfers presented are as before. -/
def keepsRest (s t : State) : Prop := keepsParameters s t ∧ t.presented = s.presented

/-- The effect of an ALU operation (R190): the result in `c`, the four flags, the pc past the instruction, and nothing else. -/
def aluEffect {w : Nat} (c : RegNum) (length : Addr) (r : BitVec w) (carry overflow : Bool) (s t : State) : Prop :=
  writesReg c (r.setWidth 64) s t ∧
  t.sr = { s.sr with z := decide (r = 0#w), c := carry, s := r.msb, v := overflow } ∧
  t.pc = s.pc + length ∧ t.mc = s.mc ∧ keepsMemory s t ∧ keepsRest s t

/-- Whether an exact signed value falls outside the w-bit two's complement range: signed overflow (R10, R12). -/
def signedOverflow (w : Nat) (x : Int) : Bool := decide (x < -2 ^ (w - 1) ∨ 2 ^ (w - 1) ≤ x)

/-- The effect of `x + y + cin` (R191, R192): carry out of bit w - 1, signed overflow. -/
def additionEffect {w : Nat} (c : RegNum) (length : Addr) (x y : BitVec w) (cin : Bool) (s t : State) : Prop :=
  aluEffect c length (x + y + BitVec.ofNat w cin.toNat) (decide (2 ^ w ≤ x.toNat + y.toNat + cin.toNat))
    (signedOverflow w (x.toInt + y.toInt + cin.toNat)) s t

/-- The effect of `x - y - bin` (R193, R194): the borrow out in C, signed overflow. -/
def subtractionEffect {w : Nat} (c : RegNum) (length : Addr) (x y : BitVec w) (bin : Bool) (s t : State) : Prop :=
  aluEffect c length (x - y - BitVec.ofNat w bin.toNat) (decide (x.toNat < y.toNat + bin.toNat))
    (signedOverflow w (x.toInt - y.toInt - bin.toNat)) s t

/-- The effect of a floating point operation's answer (R290, R291). -/
def floatEffect {w : Nat} (c : RegNum) (length : Addr) (out : FpOut w) (s t : State) : Prop :=
  writesReg c (out.r.setWidth 64) s t ∧
  t.sr = { s.sr with z := out.z, c := out.c, s := out.s, v := out.v } ∧
  t.pc = s.pc + length ∧ t.mc = s.mc ∧ keepsMemory s t ∧ keepsRest s t

/-- The low n bytes of `v` lie at `a` to `a + n - 1`, where memory is, in the machine's byte order, and every other byte of
memory is as before (R63, R67). -/
def storedAt (a : Addr) (n : Nat) (v : QWord) (s t : State) : Prop :=
  (∀ k < n, isPlain s.cfg (a + BitVec.ofNat 32 k) = true →
    t.mem.read (a + BitVec.ofNat 32 k).toNat = byteOf v (byteOrder s.cfg.endian n k)) ∧ keepsMemoryOutside a n s t

/-- The low n bytes of a value, as they lie at rising addresses in the machine's byte order (R63). -/
def bytesOf (s : State) (n : Nat) (v : QWord) : List Byte := (List.range n).map fun k => byteOf v (byteOrder s.cfg.endian n k)

/-- The effect of a store of the low n bytes of `v` at `ea` (R67, R150): also presented to the platform where it reaches it. -/
def storeEffect (ea : Addr) (n : Size) (v : QWord) (length : Addr) (s t : State) : Prop :=
  storedAt ea n.bytes v s t ∧ presents (writeTransfers ea n (bytesOf s n.bytes v)) s t ∧ keepsRegs s t ∧ t.sr = s.sr ∧
  t.pc = s.pc + length ∧ t.mc = s.mc ∧ keepsParameters s t

/-- The effect of an instruction that writes `v` to `c`, no flag and no memory: an upper immediate. -/
def moveEffect (c : RegNum) (v : QWord) (length : Addr) (s t : State) : Prop :=
  writesReg c v s t ∧ t.sr = s.sr ∧ t.pc = s.pc + length ∧ t.mc = s.mc ∧ keepsMemory s t ∧ keepsRest s t

/-- The effect of a load of n bytes at `ea` (R150, R155): the number they stand for in `c`, zero-extended, and the read
presented to the platform where it reaches it, whatever the destination (R70). -/
def loadEffect (c : RegNum) (ea : Addr) (n : Size) (length : Addr) (s t : State) : Prop :=
  writesReg c (BitVec.ofNat 64 (valueAt s ea n.bytes)) s t ∧ presents (readTransfers ea n) s t ∧ t.sr = s.sr ∧
  t.pc = s.pc + length ∧ t.mc = s.mc ∧ keepsMemory s t ∧ keepsParameters s t

/-- The effect of a jump: the pc and nothing else (R170). -/
def jumpEffect (target : Addr) (s t : State) : Prop :=
  t.pc = target ∧ keepsRegs s t ∧ t.sr = s.sr ∧ t.mc = s.mc ∧ keepsMemory s t ∧ keepsRest s t

/-- The address of vector n (R72). -/
def vectorOf (n : VectorNum) : Addr := BitVec.ofNat 32 (4 * n.toNat)

/-- The effect of the entry of interrupt n (R305): ERT, KM and the pc, which is the word of the vector, and nothing else but
that the platform sees the vector read where it reaches it (log entry 11); the requests are spoken of apart. -/
def entryEffect (n : VectorNum) (ra : Addr) (s t : State) : Prop :=
  writesReg ert (ra.setWidth 64) s t ∧ t.sr = { s.sr with km := true } ∧ t.pc = wordAt s (vectorOf n) ∧ t.mc = s.mc ∧
  keepsMemory s t ∧ presents (readTransfers (vectorOf n) .dword) s t ∧ t.cfg = s.cfg ∧ t.draws = s.draws

/-- The effect of MUL and MLC on the exact value `p` (R280 to R282): the register holds its low half, from which Z and S
follow; C and V are any value. `mc` says of the low half what MC then is (R283). -/
def productEffect (c : RegNum) (p : Int) (s : State) (mc : BitVec s.opWidth → QWord → Prop) (t : State) : Prop :=
  (∃ r : BitVec s.opWidth, writesReg c (r.setWidth 64) s t ∧
    t.sr = { s.sr with z := decide (r = 0#s.opWidth), c := t.sr.c, s := r.msb, v := t.sr.v } ∧
    (r.toNat : Int) = p % 2 ^ s.opWidth ∧ mc r t.mc) ∧
  t.pc = s.pc + 4#32 ∧ keepsMemory s t ∧ t.cfg = s.cfg ∧ t.requests = s.requests ∧ t.presented = s.presented

/-- The effect of DIV and MOD with the result `r` (R280, R284, R285): Z and S follow from it, C and V are any value, MC is as
before. -/
def divisionEffect {w : Nat} (c : RegNum) (r : BitVec w) (s t : State) : Prop :=
  writesReg c (r.setWidth 64) s t ∧
  t.sr = { s.sr with z := decide (r = 0#w), c := t.sr.c, s := r.msb, v := t.sr.v } ∧
  t.mc = s.mc ∧ t.pc = s.pc + 4#32 ∧ keepsMemory s t ∧ t.cfg = s.cfg ∧ t.requests = s.requests ∧
  t.presented = s.presented

/-- The effect of SSB and CSB, which leaves SR as `r` (R230, R231). -/
def statusEffect (r : StatusRegister) (s t : State) : Prop :=
  t.sr = r ∧ keepsRegs s t ∧ t.pc = s.pc + 4#32 ∧ t.mc = s.mc ∧ keepsMemory s t ∧ keepsRest s t

end Sys2Proof.Machine

namespace Sys2Proof

/-! Classes of instructions and of encodings. -/

/-- The ALU operations, which write Z, C, S and V (R38). -/
def Instr.isAlu : Instr → Bool
  | .add .. | .adc .. | .sub .. | .sbc .. | .and .. | .or .. | .xor .. => true
  | .addi .. | .adci .. | .subi .. | .sbci .. | .andi .. | .ori .. | .xori .. => true
  | .shr .. | .asr .. | .srn .. | .ror .. | .sln .. => true
  | .addi64 .. | .adci64 .. | .subi64 .. | .sbci64 .. | .andi64 .. | .ori64 .. | .xori64 .. => true
  | .mul .. | .mlc .. | .div .. | .mod .. | .itf .. | .fti .. | .sqr .. => true
  | .jmp .. | .jz .. | .jc .. | .js .. | .jv .. | .jnz .. | .jnc .. | .jns .. | .jnv .. => false
  | .stb .. | .stw .. | .std .. | .stq .. | .ldb .. | .ldw .. | .ldd .. | .ldq .. => false
  | .mvu .. | .int .. | .ssb .. | .csb .. | .urt | .mvu64 .. | .jmp64 .. => false
  | .ldb64 .. | .ldw64 .. | .ldd64 .. | .ldq64 .. | .stb64 .. | .stw64 .. | .std64 .. | .stq64 .. => false
  | .jz64 .. | .jc64 .. | .js64 .. | .jv64 .. | .jnz64 .. | .jnc64 .. | .jns64 .. | .jnv64 .. => false

/-- MUL and MLC, the writers of MC (R45). -/
def Instr.isMultiply : Instr → Bool
  | .add .. | .adc .. | .sub .. | .sbc .. | .and .. | .or .. | .xor .. => false
  | .addi .. | .adci .. | .subi .. | .sbci .. | .andi .. | .ori .. | .xori .. => false
  | .shr .. | .asr .. | .srn .. | .ror .. | .sln .. => false
  | .jmp .. | .jz .. | .jc .. | .js .. | .jv .. | .jnz .. | .jnc .. | .jns .. | .jnv .. => false
  | .stb .. | .stw .. | .std .. | .stq .. => false
  | .ldb .. | .ldw .. | .ldd .. | .ldq .. => false
  | .mvu .. | .ssb .. | .csb .. => false
  | .int .. | .urt => false
  | .addi64 .. | .adci64 .. | .subi64 .. | .sbci64 .. | .andi64 .. | .ori64 .. | .xori64 .. | .mvu64 .. => false
  | .ldb64 .. | .ldw64 .. | .ldd64 .. | .ldq64 .. => false
  | .stb64 .. | .stw64 .. | .std64 .. | .stq64 .. => false
  | .jmp64 .. | .jz64 .. | .jc64 .. | .js64 .. | .jv64 .. | .jnz64 .. | .jnc64 .. | .jns64 .. | .jnv64 .. => false
  | .mul .. | .mlc .. => true
  | .div .. | .mod .. => false
  | .itf .. | .fti .. | .sqr .. => false

/-- The store instructions: the two store opcodes of the opcode map (R110). -/
def Instr.isStore : Instr → Bool
  | .add .. | .adc .. | .sub .. | .sbc .. | .and .. | .or .. | .xor .. => false
  | .addi .. | .adci .. | .subi .. | .sbci .. | .andi .. | .ori .. | .xori .. => false
  | .shr .. | .asr .. | .srn .. | .ror .. | .sln .. => false
  | .jmp .. | .jz .. | .jc .. | .js .. | .jv .. | .jnz .. | .jnc .. | .jns .. | .jnv .. => false
  | .stb .. | .stw .. | .std .. | .stq .. => true
  | .ldb .. | .ldw .. | .ldd .. | .ldq .. => false
  | .mvu .. | .ssb .. | .csb .. => false
  | .int .. | .urt => false
  | .addi64 .. | .adci64 .. | .subi64 .. | .sbci64 .. | .andi64 .. | .ori64 .. | .xori64 .. | .mvu64 .. => false
  | .ldb64 .. | .ldw64 .. | .ldd64 .. | .ldq64 .. => false
  | .stb64 .. | .stw64 .. | .std64 .. | .stq64 .. => true
  | .jmp64 .. | .jz64 .. | .jc64 .. | .js64 .. | .jv64 .. | .jnz64 .. | .jnc64 .. | .jns64 .. | .jnv64 .. => false
  | .mul .. | .mlc .. => false
  | .div .. | .mod .. => false
  | .itf .. | .fti .. | .sqr .. => false

/-- The instructions that transfer control: the jumps, INT and URT (R29). -/
def Instr.isTransfer : Instr → Bool
  | .add .. | .adc .. | .sub .. | .sbc .. | .and .. | .or .. | .xor .. => false
  | .addi .. | .adci .. | .subi .. | .sbci .. | .andi .. | .ori .. | .xori .. => false
  | .shr .. | .asr .. | .srn .. | .ror .. | .sln .. => false
  | .jmp .. | .jz .. | .jc .. | .js .. | .jv .. | .jnz .. | .jnc .. | .jns .. | .jnv .. => true
  | .stb .. | .stw .. | .std .. | .stq .. => false
  | .ldb .. | .ldw .. | .ldd .. | .ldq .. => false
  | .mvu .. | .ssb .. | .csb .. => false
  | .int .. | .urt => true
  | .addi64 .. | .adci64 .. | .subi64 .. | .sbci64 .. | .andi64 .. | .ori64 .. | .xori64 .. | .mvu64 .. => false
  | .ldb64 .. | .ldw64 .. | .ldd64 .. | .ldq64 .. => false
  | .stb64 .. | .stw64 .. | .std64 .. | .stq64 .. => false
  | .jmp64 .. | .jz64 .. | .jc64 .. | .js64 .. | .jv64 .. | .jnz64 .. | .jnc64 .. | .jns64 .. | .jnv64 .. => true
  | .mul .. | .mlc .. => false
  | .div .. | .mod .. => false
  | .itf .. | .fti .. | .sqr .. => false

/-- The length of an instruction in bytes (R30, R90). -/
def Instr.length (i : Instr) : Addr := if i.isLong then 8#32 else 4#32

/-- A first word that no processor, or not a processor with these extensions, has an instruction for (R112, R114). -/
def reservedOn (x : Extensions) (w : DWord) : Prop :=
  let op := (opcodeOf w).toNat
  op ∈ [3, 5, 7, 12, 13] ∨ 24 ≤ op ∨
  (op = 0 ∧ (w.extractLsb' 9 3).toNat = 7) ∨ (op = 1 ∧ (w.extractLsb' 14 3).toNat = 7) ∨
  (op = 16 ∧ (w.extractLsb' 14 3).toNat = 7) ∨ (op = 2 ∧ 5 ≤ (w.extractLsb' 14 3).toNat) ∨
  (op = 22 ∧ (w.extractLsb' 9 3).toNat ∈ [3, 5, 6, 7]) ∨ (op = 23 ∧ 3 ≤ (w.extractLsb' 9 3).toNat) ∨
  (op = 14 ∧ 9 ≤ (w.extractLsb' 23 4).toNat) ∨
  (x.q = false ∧ (op = 8 ∨ op = 9) ∧ (w.extractLsb' 15 2).toNat = 3) ∨ (x.q = false ∧ 16 ≤ op ∧ op ≤ 21) ∨
  (x.m = false ∧ op = 22) ∨ (x.f = false ∧ op = 23)

/-- The bits of a first word that its format uses, by opcode (R94, R98, R100, R101, R102, R106, R290). -/
def usedBits (op : BitVec 5) : DWord :=
  match op.toNat with
  | 0 | 22 => 0xFFFFFE00#32
  | 2 => 0xFFFFC000#32
  | 4 => 0xFFC07FFF#32
  | 11 => 0xFF800000#32
  | 14 => 0xFFC00000#32
  | 15 => 0xF8000000#32
  | 23 => 0xFFFE0E00#32
  | _ => 0xFFFFFFFF#32

end Sys2Proof

namespace Sys2Proof.Machine

/-- The state with an encoded instruction stored at the pc in the machine's byte order (R64). -/
def State.withCode (s : State) (i : Instr) : State :=
  { s with mem := s.mem.writeBytes (isPlain s.cfg) s.pc (bytesOfWords s.cfg.endian (encode i)) }

/-! Runs. -/

/-- A step that answers a next state. -/
def Steps (s t : State) : Prop := step s = .next t

/-- A run of `n` steps that never stops. -/
def RunsFor (n : Nat) (s : State) : Prop := ∃ t, Sys2Proof.core.run n s = .next t

/-- No interrupt can be taken in this state or later: IE = 0, or the platform presents none from then on (R330). -/
def noInterruptComes (s : State) : Prop := s.sr.ie = false ∨ ∀ answer ∈ s.requests, answer = none

/-- The pc, every register, SR, MC and memory are as before (R330). -/
def atFixedPoint (s t : State) : Prop :=
  t.pc = s.pc ∧ t.regs = s.regs ∧ t.sr = s.sr ∧ t.mc = s.mc ∧ t.mem = s.mem

/-- The end of a run by the spec's convention (R330): no interrupt comes, and the step executes an instruction that leaves the
machine at a fixed point. -/
def AtEnd (s : State) : Prop := noInterruptComes s ∧ ∃ t, step s = .next t ∧ atFixedPoint s t

end Sys2Proof.Machine
end

