-- ==== Sys2Proof/Certificates/Slice0/Obligations.lean ====
section
/-! DEFINITION. The statements for the provers, in the terms of Sys2Proof/Safety.lean. A statement that rests on one of the
spec's own decisions (92_eei_decisions.md D1 to D45) or on a choice of this model (notes/assumptions) says so. -/

open Sys2Proof Sys2Proof.Machine

/-! Encoding (30_encoding.md). -/

/-- The decoder gives every instruction back from its encoding, whatever words follow (R94 to R103, R110). -/
def Obligations.DecodeOfEncode : Prop :=
  ∀ (x : Extensions) (i : Instr) (later : List DWord), i.WellFormed x → decode x (encode i ++ later) = .ok i

/-- What the decoder reads is an instruction of the processor, and the words it came from select the opcode-table row of
that instruction (R110, R114). -/
def Obligations.DecodedWordSelectsItsRow : Prop :=
  ∀ (x : Extensions) (w w' : DWord) (i : Instr), decode x [w, w'] = .ok i →
    i.WellFormed x ∧ i.row.selects (if i.isLong then .long (w ++ w') else .short w) = true

/-- Two first words that differ in unused bits only decode to the same instruction (R106). The spec's own decision D17. -/
def Obligations.UnusedBitsAreIgnored : Prop :=
  ∀ (x : Extensions) (w v w' : DWord), w &&& usedBits (opcodeOf w) = v &&& usedBits (opcodeOf w) →
    decode x [w, w'] = decode x [v, w']

/-- The first words the decoder refuses are exactly those without an instruction on this processor (R112, R114). The spec's
own decisions D18 and D33. -/
def Obligations.ReservedEncodings : Prop :=
  ∀ (x : Extensions) (w w' : DWord), (∃ i, decode x [w, w'] = .ok i) ↔ ¬ reservedOn x w

/-- Words of the spec's own examples, and one word under a processor that lacks its extension, which R114 makes reserved:
the spec's own decision D33. -/
def Obligations.SampleWordsDecode : Prop :=
  decode Extensions.none [0x00C22000#32] = .ok (.add 3 1 2) ∧
  decode Extensions.none [0x0FBC8004#32] = .ok (.subi 30 30 4) ∧
  decode Extensions.none [0x10C2C000#32] = .ok (.ror 3 1) ∧
  decode Extensions.none [0x20007FFC#32] = .ok (.jmp 0 0x7FFC) ∧
  decode Extensions.none [0x30201008#32] = .ok (.jnz 0 0x1008) ∧
  decode Extensions.none [0x407D0000#32] = .ok (.std 1 30 0) ∧
  decode Extensions.none [0x48C48002#32] = .ok (.ldw 3 2 2) ∧
  decode Extensions.none [0x50448D15#32] = .ok (.mvu 1 0x048D15) ∧
  decode Extensions.none [0x72400000#32] = .ok (.ssb .ie) ∧
  decode Extensions.all [0x80C20012#32, 0x3456789A#32] = .ok (.addi64 3 1 0x123456789A) ∧
  decode Extensions.all [0xB0C22800#32] = .ok (.mod 3 1 2) ∧
  decode Extensions.all [0xB8C20200#32] = .ok (.fti 3 1) ∧
  decode Extensions.none [0xB0C22800#32] = .error .absentExtension

/-! The step (60_exceptions.md section 1). -/

/-- Where no interrupt is taken and the words at the pc decode to an instruction, the step is that instruction's `exec`. The
interrupt check before it changes at most the list of the platform's answers, and with IE = 0 nothing (R300, R309); the
fetch changes nothing but that a platform sees those of its reads which reach it (R71, R80; log entry 11), and in plain
memory nothing. -/
def Obligations.StepRunsTheDecodedInstruction : Prop :=
  ∀ (s t : State) (i : Instr), consult s = (none, t) → fetchAllowed t t.pc →
    decode t.cfg.ext [wordAt t t.pc, wordAt t (t.pc + 4#32)] = .ok i →
    step s = exec i (t.fetched i) ∧ t = { s with requests := t.requests } ∧ (s.sr.ie = false → t = s) ∧
    t.fetched i = { t with presented := (t.fetched i).presented } ∧
    presents (readTransfers t.pc .dword ++ if i.isLong then readTransfers (t.pc + 4#32) .dword else []) t (t.fetched i) ∧
    (inMemory t t.pc i.length.toNat → t.fetched i = t)

/-- An instruction stored at the pc, in either byte order, is the one the next step runs (R64, R83, R92, R300), where its
bytes are plain memory (R71). -/
def Obligations.StoredInstructionRuns : Prop :=
  ∀ (s : State) (i : Instr), i.WellFormed s.cfg.ext → fetchAllowed s s.pc → s.sr.ie = false →
    inMemory s s.pc i.length.toNat →
    step (s.withCode i) = exec i (s.withCode i)

/-- Executing a reserved encoding is refused by that name (R112, R114). The spec's own decision D18. -/
def Obligations.StepRefusesReservedEncoding : Prop :=
  ∀ s : State, s.sr.ie = false → fetchAllowed s s.pc → reservedOn s.cfg.ext (wordAt s s.pc) →
    ∃ e, step s = .refused (.reservedEncoding e)

/-- Without the bytewise option an instruction is fetched at multiples of 4 only (R31). The spec's own decision D3. -/
def Obligations.MisalignedFetchIsRefused : Prop :=
  ∀ s : State, (consult s).1 = none → s.sr.vm = false → s.cfg.misaligned = .refuse → s.pc.toNat % 4 ≠ 0 →
    step s = .refused .misalignedFetch

/-- With VM = 1 nothing can be fetched and no vector read, so no step goes on (R78). The spec's own decision D27. -/
def Obligations.VirtualMemoryRefusesEveryStep : Prop :=
  ∀ s : State, s.sr.vm = true → step s = .refused .virtualMemoryNotSpecified

/-- With IE = 1 a presented request is taken before the fetch: ERT is the pc, KM 1, the pc the word of the vector, and no
other register, status bit or byte of memory changes (R300, R305, R308, R311). The spec's own decisions D21 and D36; the
request list is log entry 10. That the platform sees the vector read where the vector is no plain memory, recorded in
`presented`, is the model's: log entry 11. -/
def Obligations.HardwareInterruptIsTaken : Prop :=
  ∀ (s : State) (n : VectorNum) (later : List (Option VectorNum)), s.sr.ie = true → s.sr.vm = false →
    s.requests = some n :: later →
    ∃ t, step s = .next t ∧ entryEffect n s.pc s t ∧ t.requests = later

/-- With IE = 0 the platform's requests change nothing in the step and are not used up (R309; log entry 10). -/
def Obligations.MaskedRequestsHaveNoInfluence : Prop :=
  ∀ (s : State) (q : List (Option VectorNum)), s.sr.ie = false →
    (∀ t, step s = .next t → step { s with requests := q } = .next { t with requests := q }) ∧
    (∀ r, step s = .refused r → step { s with requests := q } = .refused r)

/-! Memory (20_memory.md). -/

/-- `MemRead` in full: its two refusals, and the number its bytes stand for in the machine's byte order (R63, R66; a byte
that is no plain memory is the platform's answer, R71, log entry 11). The spec's own decisions D1, D2 and D27. An eight-byte
access needs 4 (R66) or 8 (D40), as the parameter of log entry 3 says. -/
def Obligations.MemReadValue : Prop :=
  ∀ (s : State) (a : Addr) (n : Size),
    if s.sr.vm = true then memRead s a n = .error .virtualMemoryNotSpecified
    else if a.toNat % requiredAlignment s n ≠ 0 ∧ s.cfg.misaligned = .refuse then memRead s a n = .error .misalignedAccess
    else ∃ v, memRead s a n = .ok v ∧ v.toNat = valueAt s a n.bytes

/-- `MemWrite` in full: its two refusals, the bytes it sets and the bytes it leaves (R63, R67; where no plain memory lies
the platform is presented with the write, R71, log entry 11). The spec's own decisions D1, D2 and D27; eight bytes: log
entry 3. -/
def Obligations.MemWriteBytes : Prop :=
  ∀ (s : State) (a : Addr) (n : Size) (v : QWord),
    if s.sr.vm = true then memWrite s a n v = .error .virtualMemoryNotSpecified
    else if a.toNat % requiredAlignment s n ≠ 0 ∧ s.cfg.misaligned = .refuse then memWrite s a n v = .error .misalignedAccess
    else ∃ t, memWrite s a n v = .ok t ∧ storedAt a n.bytes v s t ∧
      presents (writeTransfers a n (bytesOf s n.bytes v)) s t ∧ t = { s with mem := t.mem, presented := t.presented }

/-- A double-word store to plain memory seen by byte and word reads (R63), in both byte orders. The spec's own decision D1.
-/
def Obligations.MixedWidthAccess : Prop :=
  ∀ (s t : State) (a : Addr) (v : QWord), inMemory s a 4 → memWrite s a .dword v = .ok t →
    (∀ k < 4, memRead t (a + BitVec.ofNat 32 k) .byte = .ok ((byteOf v (byteOrder s.cfg.endian 4 k)).setWidth 64)) ∧
    (s.cfg.endian = .little →
      memRead t a .word = .ok ((v.extractLsb' 0 16).setWidth 64) ∧
      memRead t (a + 2#32) .word = .ok ((v.extractLsb' 16 16).setWidth 64)) ∧
    (s.cfg.endian = .big →
      memRead t a .word = .ok ((v.extractLsb' 16 16).setWidth 64) ∧
      memRead t (a + 2#32) .word = .ok ((v.extractLsb' 0 16).setWidth 64))

/-- A read of the size and address of a completed store to plain memory gives the low bytes of the stored value back (R66,
R67, R80). -/
def Obligations.LoadAfterStore : Prop :=
  ∀ (s t : State) (a : Addr) (n : Size) (v : QWord), inMemory s a n.bytes → memWrite s a n v = .ok t →
    memRead t a n = .ok (BitVec.ofNat 64 (v.toNat % 2 ^ (8 * n.bytes)))

/-- A double-word stored in plain memory is the instruction word the next fetch at its address reads (R83). The spec's own
decision D26. -/
def Obligations.StoreIsSeenByTheFetch : Prop :=
  ∀ (s t : State) (a : Addr) (v : QWord), inMemory s a 4 → memWrite s a .dword v = .ok t →
    fetchWord t a = .ok (v.setWidth 32)

/-! Registers and the status register (10_state.md). -/

/-- `x[i]` in full: the constant, the two views, and the last value written, at the register width (R23, R24). That EPC
wraps modulo 2^32 is log entry 15; that QWM and FPM read 0 without their extension is the spec's own decision D33; ESR's
layout is D8 and the offset D6. -/
def Obligations.RegisterRead : Prop :=
  ∀ s : State,
    s.readReg 0#5 = 0#64 ∧
    (∀ k < 64, (s.readReg 25#5).getLsbD k
      = [s.sr.z, s.sr.c, s.sr.s, s.sr.v, s.sr.ie, s.sr.vm, s.cfg.ext.q && s.sr.qwm, s.sr.km,
          s.cfg.ext.f && s.sr.fpm].getD k false) ∧
    (s.readReg 31#5).toNat
      = (s.pc.toNat + (match s.cfg.epcOffset with | .zero => 0 | .four => 4 | .eight => 8)) % 2 ^ 32 ∧
    (∀ (i : RegNum) (v : QWord), i ≠ 0#5 → i ≠ 25#5 → i ≠ 31#5 →
      ((s.writeReg i v).readReg i).toNat = v.toNat % 2 ^ (if s.cfg.ext.q then 64 else 32) ∧
      ∀ j, j ≠ i → (s.writeReg i v).readReg j = s.readReg j)

/-- A write to E0X, ESR or EPC changes nothing, and an instruction aimed at one still does everything else (R24, R70, R145).
The spec's own decisions D7 and D39; that the platform sees a load's read where no plain memory lies, recorded in `presented`,
is the model's: log entry 11. -/
def Obligations.WritesToReadOnlyRegistersAreDiscarded : Prop :=
  ∀ (s : State) (i : RegNum) (v : QWord), (i = 0#5 ∨ i = 25#5 ∨ i = 31#5) →
    s.writeReg i v = s ∧
    (∀ imm, exec (.mvu i imm) s = .next { s with pc := s.pc + 4#32 }) ∧
    (∀ a imm, accessAllowed s (s.effectiveAddress a imm) .dword →
      exec (.ldd i a imm) s = .next { s with
        pc := s.pc + 4#32,
        presented := s.presented ++ (readTransfers (s.effectiveAddress a imm) .dword).filter (reachesPlatform s.cfg) })

/-- The complete list of the writers of SR (R37): ALU operations write Z, C, S and V; SSB and CSB one permitted bit; INT and
the hardware interrupt KM; URT KM; reset. Nothing else writes it. The spec's own decisions D9 (the ALU operations), D19 (the
writable bits), D20 to D22 (entry and return) and D23 (what reset leaves, R50, R340). -/
def Obligations.StatusRegisterWriters : Prop :=
  (∀ (i : Instr) (s t : State), exec i s = .next t →
    t.sr = s.sr ∨
    (i.isAlu = true ∧ t.sr = { s.sr with z := t.sr.z, c := t.sr.c, s := t.sr.s, v := t.sr.v }) ∨
    (∃ b, i = .ssb b ∧ s.writable b = true ∧ t.sr = s.sr.put b true) ∨
    (∃ b, i = .csb b ∧ s.writable b = true ∧ t.sr = s.sr.put b false) ∨
    ((∃ n, i = .int n) ∧ t.sr = { s.sr with km := true }) ∨
    (i = .urt ∧ t.sr = { s.sr with km := false })) ∧
  (∀ (s t : State) (n : VectorNum), (consult s).1 = some n → step s = .next t → t.sr = { s.sr with km := true }) ∧
  (∀ s t : State, resetEvent s = .next t →
    t.sr.ie = false ∧ t.sr.vm = false ∧ t.sr.qwm = false ∧ t.sr.km = true ∧ t.sr.fpm = false)

/-- Only MUL and MLC write MC (R45), and none of them while FPM = 1 (the model's reading of R291, log entry 9). -/
def Obligations.MulCarryRegisterWriters : Prop :=
  ∀ (i : Instr) (s t : State), exec i s = .next t → t.mc ≠ s.mc → i.isMultiply = true ∧ s.fpm = false

/-- No instruction but a store, and no interrupt entry, changes a byte of memory (R61, R305). -/
def Obligations.OnlyStoresWriteMemory : Prop :=
  (∀ (i : Instr) (s t : State), exec i s = .next t → t.mem ≠ s.mem → i.isStore = true) ∧
  (∀ (s t : State) (n : VectorNum), (consult s).1 = some n → step s = .next t → t.mem = s.mem)

/-- An instruction that is no jump, INT or URT advances the pc by its own length, modulo 2^32 (R29, R30, R32). The spec's
own decision D25. -/
def Obligations.OnlyTransfersDepartFromTheNextInstruction : Prop :=
  ∀ (i : Instr) (s t : State), exec i s = .next t → i.isTransfer = false → t.pc = s.pc + i.length

/-- No step in user mode changes IE, VM or QWM (R35, R40 to R42, R233). The spec's own decision D19. -/
def Obligations.UserModeCannotChangeControlBits : Prop :=
  ∀ s t : State, s.sr.km = false → step s = .next t →
    t.sr.ie = s.sr.ie ∧ t.sr.vm = s.sr.vm ∧ t.sr.qwm = s.sr.qwm

/-- User mode is left only through a vector, with the return address in ERT, and kernel mode only by URT, to the address in
ERT (R43, R232, R305). The spec's own decisions D19, D20, D21 (hardware interrupts and their vectors) and D22; the request
list is log entry 10. INT's vector is read after its own fetch, which a platform may see: log entry 11. -/
def Obligations.ModeChangesOnlyAtTheGates : Prop :=
  ∀ s t : State, step s = .next t →
    (s.sr.km = false → t.sr.km = true → ∃ n : VectorNum,
      ((consult s).1 = some n ∧ t.pc = wordAt s (vectorOf n) ∧ t.readReg 24#5 = s.pc.setWidth 64) ∨
      ((consult s).1 = none ∧ fetch s = .ok (.int n) ∧ t.pc = wordAt (s.fetched (.int n)) (vectorOf n) ∧
        t.readReg 24#5 = (s.pc + 4#32).setWidth 64)) ∧
    (s.sr.km = true → t.sr.km = false →
      (consult s).1 = none ∧ fetch s = .ok .urt ∧ t.pc = (s.readReg 24#5).setWidth 32)

/-- The invariant: canonical memory, and the state of absent extensions at what the spec says it reads (R20, R42, R44, R45,
R60). -/
def Obligations.StepKeepsWellFormed : Prop :=
  ∀ s t : State, s.WellFormed → step s = .next t → t.WellFormed

/-- The invariant holds of the machine right after reset. -/
def Obligations.ResetIsWellFormed : Prop :=
  State.reset.WellFormed

/-- No step changes a parameter of the machine: extensions, byte order, reset vector, EPC offset, treatment of misaligned
accesses, MulCarryOut, DivZero, FpNumerics, MemMap (R7, R63). -/
def Obligations.StepKeepsTheParameters : Prop :=
  ∀ s t : State, step s = .next t → t.cfg = s.cfg

/-! Reset (10_state.md R50, 70_reset_and_hazards.md). -/

/-- What the reset state holds. Given by the spec: KM = 1; its decision D23: IE, VM, QWM, FPM = 0; R50, R340: the pc is the
word the reset vector holds, RST_VEC being 0x0FFFFFFC (D24). The model's choice: memory lists nothing (log entries 4, 6). -/
def Obligations.ResetState : Prop :=
  State.reset.sr.km = true ∧ State.reset.sr.ie = false ∧ State.reset.sr.vm = false ∧ State.reset.sr.qwm = false ∧
  State.reset.sr.fpm = false ∧ State.reset.cfg.rstVec = 0x0FFFFFFC#32 ∧
  State.reset.pc = wordAt State.reset State.reset.cfg.rstVec ∧ State.reset.readReg 0#5 = 0#64 ∧ State.reset.mem = []

/-- The reset event on any state: KM = 1, the control bits 0, the pc the word at the reset vector read physically, memory
kept; everything else is any value (R50, R340, R341). The spec's own decision D23; that the invariant is kept is the model's
(log entry 16), and what the platform sees is log entry 11. -/
def Obligations.ResetEvent : Prop :=
  ∀ s : State, (s.cfg.misaligned = .bytewise ∨ s.cfg.rstVec.toNat % 4 = 0) →
    ∃ t, resetEvent s = .next t ∧ t.sr.km = true ∧ t.sr.ie = false ∧ t.sr.vm = false ∧ t.sr.qwm = false ∧
      t.sr.fpm = false ∧ t.pc = wordAt s s.cfg.rstVec ∧ t.mem = s.mem ∧ t.cfg = s.cfg ∧ t.requests = s.requests ∧
      presents (readTransfers s.cfg.rstVec .dword) s t ∧ (s.mem.wf → t.WellFormed)

/-! INT, URT, SSB, CSB and MVU (40_int.md, 41_mvu.md, 46_status_urt.md). -/

/-- INT in either mode and with either value of IE: ERT is the pc + 4, KM 1, the pc the word of the vector, and no other
register, status bit or byte of memory changes; with VM = 1 the vector read is refused (R140, R305). The spec's own decisions
D20 and D27. That the platform sees the vector read where the vector is no plain memory, recorded in `presented`, is the
model's: log entry 11. -/
def Obligations.IntTakesItsVector : Prop :=
  ∀ (s : State) (n : VectorNum),
    if s.sr.vm = true then exec (.int n) s = .refused .virtualMemoryNotSpecified
    else completes (.int n) s fun t =>
      entryEffect n (s.pc + 4#32) s t ∧ t.requests = s.requests

/-- URT in either mode: the pc is ERT's low 32 bits, KM 0, nothing else changes (R232). The spec's own decision D22. -/
def Obligations.UrtReturns : Prop :=
  ∀ s : State, completes .urt s fun t =>
    t.pc = (s.readReg 24#5).setWidth 32 ∧ t.sr = { s.sr with km := false } ∧ keepsRegs s t ∧ t.mc = s.mc ∧
    keepsMemory s t ∧ keepsRest s t

/-- SSB and CSB on each bit (R230, R231, R233): Z, C, S, V always; IE and VM in kernel mode; QWM in kernel mode with EXT_Q;
FPM with EXT_F; KM never. Elsewhere only the pc moves: the spec's own decision D19. -/
def Obligations.StatusBitInstructions : Prop :=
  ∀ (s : State) (b : Bool),
    let i : StatusBit → Instr := fun k => if b then .ssb k else .csb k
    completes (i .z) s (statusEffect { s.sr with z := b } s) ∧
    completes (i .c) s (statusEffect { s.sr with c := b } s) ∧
    completes (i .s) s (statusEffect { s.sr with s := b } s) ∧
    completes (i .v) s (statusEffect { s.sr with v := b } s) ∧
    completes (i .ie) s (statusEffect (if s.sr.km then { s.sr with ie := b } else s.sr) s) ∧
    completes (i .vm) s (statusEffect (if s.sr.km then { s.sr with vm := b } else s.sr) s) ∧
    completes (i .qwm) s (statusEffect (if s.sr.km && s.cfg.ext.q then { s.sr with qwm := b } else s.sr) s) ∧
    completes (i .km) s (statusEffect s.sr s) ∧
    completes (i .fpm) s (statusEffect (if s.cfg.ext.f then { s.sr with fpm := b } else s.sr) s)

/-- MVU: the immediate at bits 31:10, every other bit 0 (R145). The spec's own decision D5 for the bits above 31. -/
def Obligations.MvuResult : Prop :=
  ∀ (s : State) (c : RegNum) (imm : BitVec 22),
    completes (.mvu c imm) s (moveEffect c (BitVec.ofNat 64 (imm.toNat * 2 ^ 10)) 4#32 s)

/-- MVI, that is MVU then ADDI, loads a 32-bit constant and leaves the flags of the constant (R121). -/
def Obligations.MviLoadsTheConstant : Prop :=
  ∀ (s : State) (c : RegNum) (k : DWord), s.fpm = false →
    completes (.mvu c (k.extractLsb' 10 22)) s fun t =>
    completes (.addi c c ((k.extractLsb' 0 10).setWidth 14)) t fun u =>
      writesReg c (k.setWidth 64) s u ∧ keepsMemory s u ∧ u.mc = s.mc ∧
      (isReadOnly c = false →
        let top := (BitVec.ofNat s.opWidth k.toNat).msb
        u.sr = { s.sr with z := decide (k = 0#32), c := false, s := top, v := false })

/-! Loads and stores (42_load_store.md, 47_ext64.md section 4). -/

/-- STB, STW and STD: the low 1, 2 or 4 bytes of the register at the effective address, every other byte of memory as
before, no register and no flag (R150 to R153). The spec's own decisions D1 (byte order), D2 (alignment) and D35: where no
plain memory lies the platform is presented with the write (R70, R71; log entry 11). -/
def Obligations.NarrowStores : Prop :=
  ∀ (s : State) (c a : RegNum) (imm : BitVec 15),
    let ea := s.effectiveAddress a imm
    ea = BitVec.ofNat 32 ((s.readReg a).toNat + imm.toNat) ∧
    (accessAllowed s ea .byte → completes (.stb c a imm) s (storeEffect ea .byte (s.readReg c) 4#32 s)) ∧
    (accessAllowed s ea .word → completes (.stw c a imm) s (storeEffect ea .word (s.readReg c) 4#32 s)) ∧
    (accessAllowed s ea .dword → completes (.std c a imm) s (storeEffect ea .dword (s.readReg c) 4#32 s))

/-- STB64, STW64, STD64 and STQ64 (R252, R257 to R260). The spec's own decisions D1, D2 and D35 (platform: log entry 11).
STQ64 is one step (log entry 19) at a multiple of 4 or 8, as the parameter of log entry 3 says. -/
def Obligations.WideStores : Prop :=
  ∀ (s : State) (c a : RegNum) (imm : BitVec 47),
    let ea := s.effectiveAddress a imm
    ea = BitVec.ofNat 32 ((s.readReg a).toNat + imm.toNat) ∧
    (accessAllowed s ea .byte → completes (.stb64 c a imm) s (storeEffect ea .byte (s.readReg c) 8#32 s)) ∧
    (accessAllowed s ea .word → completes (.stw64 c a imm) s (storeEffect ea .word (s.readReg c) 8#32 s)) ∧
    (accessAllowed s ea .dword → completes (.std64 c a imm) s (storeEffect ea .dword (s.readReg c) 8#32 s)) ∧
    (accessAllowed s ea .qword → completes (.stq64 c a imm) s (storeEffect ea .qword (s.readReg c) 8#32 s))

/-- LDB, LDW and LDD: the value at the effective address, zero-extended into the register, nothing else (R150, R155 to
R157). The spec's own decisions D1, D2, D5 (the upper bits), D35 and D39: where no plain memory lies the platform answers
(R70, R71; log entry 11). -/
def Obligations.NarrowLoads : Prop :=
  ∀ (s : State) (c a : RegNum) (imm : BitVec 15),
    let ea := s.effectiveAddress a imm
    ea = BitVec.ofNat 32 ((s.readReg a).toNat + imm.toNat) ∧
    (accessAllowed s ea .byte → completes (.ldb c a imm) s (loadEffect c ea .byte 4#32 s)) ∧
    (accessAllowed s ea .word → completes (.ldw c a imm) s (loadEffect c ea .word 4#32 s)) ∧
    (accessAllowed s ea .dword → completes (.ldd c a imm) s (loadEffect c ea .dword 4#32 s))

/-- LDQ64, LDD64, LDW64 and LDB64 (R252 to R256). They exist only with `EXT_Q`. The spec's own decisions D1, D2, D5, D35 and
D39 (platform: log entry 11). LDQ64 is one step (log entry 19) at a multiple of 4 or 8, as the parameter of log entry 3
says. -/
def Obligations.WideLoads : Prop :=
  ∀ (s : State) (c a : RegNum) (imm : BitVec 47), s.cfg.ext.q = true →
    let ea := s.effectiveAddress a imm
    ea = BitVec.ofNat 32 ((s.readReg a).toNat + imm.toNat) ∧
    (accessAllowed s ea .byte → completes (.ldb64 c a imm) s (loadEffect c ea .byte 8#32 s)) ∧
    (accessAllowed s ea .word → completes (.ldw64 c a imm) s (loadEffect c ea .word 8#32 s)) ∧
    (accessAllowed s ea .dword → completes (.ldd64 c a imm) s (loadEffect c ea .dword 8#32 s)) ∧
    (accessAllowed s ea .qword → completes (.ldq64 c a imm) s (loadEffect c ea .qword 8#32 s))

/-- STQ and LDQ, of a processor with `EXT_Q` (R154, R158), as one step (log entry 19). Under `MISALIGNED` = refuse the
address is a multiple of 4 (R154, R158) or of 8 (D40), as the parameter of log entry 3 says. The spec's own decisions D1,
D2, D35 and D39 (platform: log entry 11). -/
def Obligations.QuadWordAccess : Prop :=
  ∀ (s : State) (c a : RegNum) (imm : BitVec 15), s.cfg.ext.q = true →
    let ea := s.effectiveAddress a imm
    accessAllowed s ea .qword →
    completes (.stq c a imm) s (storeEffect ea .qword (s.readReg c) 4#32 s) ∧
    completes (.ldq c a imm) s (loadEffect c ea .qword 4#32 s)

/-- A load or store whose access is not performed is refused, with the reason, in every form; with VM = 1 for that reason,
else for misalignment (R68, R78, R150, R252). The spec's own decisions D2 and D27; the alignment of eight bytes is log entry
3. -/
def Obligations.RefusedAccesses : Prop :=
  ∀ (s : State) (c a : RegNum) (imm : BitVec 15) (long : BitVec 47),
    let reason : Refusal := if s.sr.vm then .virtualMemoryNotSpecified else .misalignedAccess
    let refused : Instr → Prop := fun i => exec i s = .refused reason
    let ea := s.effectiveAddress a imm
    let el := s.effectiveAddress a long
    (¬ accessAllowed s ea .byte → refused (.stb c a imm) ∧ refused (.ldb c a imm)) ∧
    (¬ accessAllowed s ea .word → refused (.stw c a imm) ∧ refused (.ldw c a imm)) ∧
    (¬ accessAllowed s ea .dword → refused (.std c a imm) ∧ refused (.ldd c a imm)) ∧
    (¬ accessAllowed s ea .qword → refused (.stq c a imm) ∧ refused (.ldq c a imm)) ∧
    (¬ accessAllowed s el .byte → refused (.stb64 c a long) ∧ refused (.ldb64 c a long)) ∧
    (¬ accessAllowed s el .word → refused (.stw64 c a long) ∧ refused (.ldw64 c a long)) ∧
    (¬ accessAllowed s el .dword → refused (.std64 c a long) ∧ refused (.ldd64 c a long)) ∧
    (¬ accessAllowed s el .qword → refused (.stq64 c a long) ∧ refused (.ldq64 c a long))

/-! Jumps (43_jumps.md, 47_ext64.md section 5). -/

/-- JMP and JMP64 go to register plus signed immediate, modulo 2^32, and write nothing else (R170, R261). -/
def Obligations.UnconditionalJumps : Prop :=
  ∀ (s : State) (c : RegNum) (imm : BitVec 15) (long : BitVec 54),
    completes (.jmp c imm) s (jumpEffect (jumpAddress s c imm) s) ∧
    completes (.jmp64 c long) s (jumpEffect (jumpAddress s c long) s)

/-- The eight conditional jumps: to register plus signed immediate where the condition holds, else past the instruction;
nothing else is written (R171 to R179). -/
def Obligations.ConditionalJumps : Prop :=
  ∀ (s : State) (c : RegNum) (imm : BitVec 19),
    let goes : Bool → Addr := fun taken => if taken then jumpAddress s c imm else s.pc + 4#32
    completes (.jz c imm) s (jumpEffect (goes s.sr.z) s) ∧
    completes (.jc c imm) s (jumpEffect (goes s.sr.c) s) ∧
    completes (.js c imm) s (jumpEffect (goes s.sr.s) s) ∧
    completes (.jv c imm) s (jumpEffect (goes s.sr.v) s) ∧
    completes (.jnz c imm) s (jumpEffect (goes (!s.sr.z)) s) ∧
    completes (.jnc c imm) s (jumpEffect (goes (!s.sr.c)) s) ∧
    completes (.jns c imm) s (jumpEffect (goes (!s.sr.s)) s) ∧
    completes (.jnv c imm) s (jumpEffect (goes (!s.sr.v)) s)

/-- The eight conditional jumps of 64 bits (R262 to R270). -/
def Obligations.ConditionalJumps64 : Prop :=
  ∀ (s : State) (c : RegNum) (imm : BitVec 51),
    let goes : Bool → Addr := fun taken => if taken then jumpAddress s c imm else s.pc + 8#32
    completes (.jz64 c imm) s (jumpEffect (goes s.sr.z) s) ∧
    completes (.jc64 c imm) s (jumpEffect (goes s.sr.c) s) ∧
    completes (.js64 c imm) s (jumpEffect (goes s.sr.s) s) ∧
    completes (.jv64 c imm) s (jumpEffect (goes s.sr.v) s) ∧
    completes (.jnz64 c imm) s (jumpEffect (goes (!s.sr.z)) s) ∧
    completes (.jnc64 c imm) s (jumpEffect (goes (!s.sr.c)) s) ∧
    completes (.jns64 c imm) s (jumpEffect (goes (!s.sr.s)) s) ∧
    completes (.jnv64 c imm) s (jumpEffect (goes (!s.sr.v)) s)

/-! Arithmetic and logic (44_alu.md, 47_ext64.md section 2). -/

/-- ADD and ADC at the operating width: the sum modulo 2^W, carry out, signed overflow, Z and S of the result (R190 to
R192); FPM = 1 is `FloatingMode`. -/
def Obligations.Addition : Prop :=
  ∀ (s : State) (c a b : RegNum), s.fpm = false →
    s.opWidth = (if s.cfg.ext.q && s.sr.qwm then 64 else 32) ∧
    completes (.add c a b) s (additionEffect c 4#32 (operand s a) (operand s b) false s) ∧
    completes (.adc c a b) s (additionEffect c 4#32 (operand s a) (operand s b) s.sr.c s)

/-- SUB and SBC at the operating width: the difference modulo 2^W, the borrow out in C, signed overflow, Z and S of the
result (R193, R194). -/
def Obligations.Subtraction : Prop :=
  ∀ (s : State) (c a b : RegNum), s.fpm = false →
    completes (.sub c a b) s (subtractionEffect c 4#32 (operand s a) (operand s b) false s) ∧
    completes (.sbc c a b) s (subtractionEffect c 4#32 (operand s a) (operand s b) s.sr.c s)

/-- ADDI, ADCI, SUBI and SBCI: as the register forms with the unsigned 14-bit immediate (R199 to R202). -/
def Obligations.ImmediateArithmetic : Prop :=
  ∀ (s : State) (c a : RegNum) (imm : BitVec 14), s.fpm = false →
    completes (.addi c a imm) s (additionEffect c 4#32 (operand s a) (immediate s imm) false s) ∧
    completes (.adci c a imm) s (additionEffect c 4#32 (operand s a) (immediate s imm) s.sr.c s) ∧
    completes (.subi c a imm) s (subtractionEffect c 4#32 (operand s a) (immediate s imm) false s) ∧
    completes (.sbci c a imm) s (subtractionEffect c 4#32 (operand s a) (immediate s imm) s.sr.c s)

/-- ADDI64, ADCI64, SUBI64 and SBCI64 with the unsigned 46-bit immediate, of which W = 32 uses the low 32 bits (R244 to
R247). -/
def Obligations.WideImmediateArithmetic : Prop :=
  ∀ (s : State) (c a : RegNum) (imm : BitVec 46), s.fpm = false →
    completes (.addi64 c a imm) s (additionEffect c 8#32 (operand s a) (immediate s imm) false s) ∧
    completes (.adci64 c a imm) s (additionEffect c 8#32 (operand s a) (immediate s imm) s.sr.c s) ∧
    completes (.subi64 c a imm) s (subtractionEffect c 8#32 (operand s a) (immediate s imm) false s) ∧
    completes (.sbci64 c a imm) s (subtractionEffect c 8#32 (operand s a) (immediate s imm) s.sr.c s)

/-- AND, OR and XOR in the three forms: the bitwise result, C and V written 0 (R195 to R197, R203 to R205, R248 to R250).
The spec's own decision D10 for C and V. -/
def Obligations.BitwiseOperations : Prop :=
  ∀ (s : State) (c a b : RegNum) (imm : BitVec 14) (long : BitVec 46), s.fpm = false →
    let x := operand s a
    completes (.and c a b) s (aluEffect c 4#32 (x &&& operand s b) false false s) ∧
    completes (.or c a b) s (aluEffect c 4#32 (x ||| operand s b) false false s) ∧
    completes (.xor c a b) s (aluEffect c 4#32 (x ^^^ operand s b) false false s) ∧
    completes (.andi c a imm) s (aluEffect c 4#32 (x &&& immediate s imm) false false s) ∧
    completes (.ori c a imm) s (aluEffect c 4#32 (x ||| immediate s imm) false false s) ∧
    completes (.xori c a imm) s (aluEffect c 4#32 (x ^^^ immediate s imm) false false s) ∧
    completes (.andi64 c a long) s (aluEffect c 8#32 (x &&& immediate s long) false false s) ∧
    completes (.ori64 c a long) s (aluEffect c 8#32 (x ||| immediate s long) false false s) ∧
    completes (.xori64 c a long) s (aluEffect c 8#32 (x ^^^ immediate s long) false false s)

/-- CMP, that is SUB into E0X: the flags of the comparison and nothing else (R127). -/
def Obligations.CompareFlags : Prop :=
  ∀ (s : State) (a b : RegNum), s.fpm = false →
    completes (.sub 0#5 a b) s fun t =>
      t.sr.z = decide (operand s a = operand s b) ∧
      t.sr.c = decide ((operand s a).toNat < (operand s b).toNat) ∧
      t.sr.s = (operand s a - operand s b).msb ∧
      t.sr.v = signedOverflow s.opWidth ((operand s a).toInt - (operand s b).toInt) ∧
      keepsRegs s t ∧ keepsMemory s t

/-- SHL, that is ADD of a register to itself: a left shift by one, C the bit shifted out, V the change of sign (R131). -/
def Obligations.ShiftLeftByAddition : Prop :=
  ∀ (s : State) (c a : RegNum), s.fpm = false →
    completes (.add c a a) s (aluEffect c 4#32 (operand s a <<< 1) (operand s a).msb
      ((operand s a).msb != (operand s a <<< 1).msb) s)

/-! Shifts (45_shifts.md). -/

/-- SHR, ASR, SRN, ROR and SLN as arithmetic on the operand: C the last bit out, V 0 (R220 to R225). The spec's own decision
D11 for C and V. -/
def Obligations.Shifts : Prop :=
  ∀ (s : State) (c a : RegNum), s.fpm = false →
    let x := operand s a
    let odd := decide (x.toNat % 2 = 1)
    completes (.shr c a) s (aluEffect c 4#32 (BitVec.ofNat s.opWidth (x.toNat / 2)) odd false s) ∧
    completes (.asr c a) s (aluEffect c 4#32 (BitVec.ofInt s.opWidth (x.toInt / 2)) odd false s) ∧
    completes (.srn c a) s (aluEffect c 4#32 (BitVec.ofNat s.opWidth (x.toNat / 16))
      (decide (x.toNat / 8 % 2 = 1)) false s) ∧
    completes (.ror c a) s (aluEffect c 4#32
      (BitVec.ofNat s.opWidth (x.toNat / 2 + s.sr.c.toNat * 2 ^ (s.opWidth - 1))) odd false s) ∧
    completes (.sln c a) s (aluEffect c 4#32 (BitVec.ofNat s.opWidth (x.toNat * 16))
      (decide (x.toNat / 2 ^ (s.opWidth - 4) % 2 = 1)) false s)

/-! MVU64, MUL/DIV and floating point (47_ext64.md, 48_ext_muldiv.md, 49_ext_fp.md). -/

/-- MVU64: the immediate at bits 63:10, bits 9:0 zero (R251). It exists only with `EXT_Q`. The spec's own decision D30 reads
"C [54:10]" as bits 63:10 (90_conflicts.md C12). -/
def Obligations.WideUpperImmediate : Prop :=
  ∀ (s : State) (c : RegNum) (imm : BitVec 54), s.cfg.ext.q = true →
    completes (.mvu64 c imm) s (moveEffect c (BitVec.ofNat 64 (imm.toNat * 2 ^ 10)) 8#32 s)

/-- MUL and MLC: the register holds the low half of the exact signed product, plus the signed MC for MLC; Z and S follow
from it; C and V any value (R280 to R282). MC is what MulCarryOut says (R283, log entry 12): at its default MC and the
register together are that product; with the unsigned high half they are the unsigned one; written by MLC only, MUL leaves
MC; else it is the platform's function. The spec's own decisions D31 and D42. -/
def Obligations.Multiplication : Prop :=
  ∀ (s : State) (c a b : RegNum), s.fpm = false →
    let W := s.opWidth
    let x := operand s a
    let y := operand s b
    let m : BitVec W := s.mc.setWidth W
    let mul : (BitVec W → QWord → Prop) → Prop := fun mc => completes (.mul c a b) s (productEffect c (x.toInt * y.toInt) s mc)
    let mlc : (BitVec W → QWord → Prop) → Prop := fun mc =>
      completes (.mlc c a b) s (productEffect c (x.toInt * y.toInt + m.toInt) s mc)
    let signed : Int → BitVec W → QWord → Prop := fun p r mc => ∃ h : BitVec W, mc = h.setWidth 64 ∧ p = h.toInt * 2 ^ W + r.toNat
    let unsigned : Nat → BitVec W → QWord → Prop := fun p r mc => ∃ h : BitVec W, mc = h.setWidth 64 ∧ p = h.toNat * 2 ^ W + r.toNat
    (s.cfg.mulCarry = .signedHigh → mul (signed (x.toInt * y.toInt)) ∧ mlc (signed (x.toInt * y.toInt + m.toInt))) ∧
    (s.cfg.mulCarry = .unsignedHigh → mul (unsigned (x.toNat * y.toNat)) ∧ mlc (unsigned (x.toNat * y.toNat + m.toNat))) ∧
    (s.cfg.mulCarry = .mlcOnly → mul (fun _ mc => mc = s.mc) ∧ mlc (signed (x.toInt * y.toInt + m.toInt))) ∧
    (s.cfg.mulCarry = .platform → mul (fun _ mc => mc = (Config.mulCarryOut W x y 0).setWidth 64) ∧
      mlc (fun _ mc => mc = (Config.mulCarryOut W x y m).setWidth 64))

/-- DIV and MOD where the quotient exists: the truncating quotient, the remainder with the dividend's sign, and the law that
ties them (R284, R285). The spec's own decision D31. -/
def Obligations.Division : Prop :=
  ∀ (s : State) (c a b : RegNum), s.fpm = false →
    let x := (operand s a).toInt
    let y := (operand s b).toInt
    y ≠ 0 → ¬ (x = -2 ^ (s.opWidth - 1) ∧ y = -1) →
    ∃ q m : BitVec s.opWidth, completes (.div c a b) s (divisionEffect c q s) ∧
      completes (.mod c a b) s (divisionEffect c m s) ∧
      q.toInt = x.tdiv y ∧ x = y * q.toInt + m.toInt ∧ |m.toInt| < |y| ∧ (m.toInt = 0 ∨ m.toInt.sign = x.sign)

/-- DIV and MOD by zero, and of the overflowing quotient: with DivZero any value they complete with some value, from which Z
and S follow, and with DivZero refuse they are refused (R286; the free value is log entry 7). The spec's own decision D31.
-/
def Obligations.DivisionWithoutResult : Prop :=
  ∀ (s : State) (c a b : RegNum), s.fpm = false →
    let x := (operand s a).toInt
    let y := (operand s b).toInt
    (y = 0 ∨ (x = -2 ^ (s.opWidth - 1) ∧ y = -1)) →
    (s.cfg.divZero = .anyValue →
      completes (.div c a b) s (fun t => ∃ r : BitVec s.opWidth, divisionEffect c r s t) ∧
      completes (.mod c a b) s (fun t => ∃ r : BitVec s.opWidth, divisionEffect c r s t)) ∧
    (s.cfg.divZero = .refuse →
      exec (.div c a b) s = .refused .divisionResultNotSpecified ∧
      exec (.mod c a b) s = .refused .divisionResultNotSpecified)

/-- ITF, FTI and SQR, with either value of FPM: the result and flags `FpNumerics` answers, nothing else; refused where it is
none (R290, R292 to R295). The spec's own decision D32; the record has no body (log entry 8). -/
def Obligations.Conversions : Prop :=
  ∀ (s : State) (c a : RegNum),
    (s.cfg.fp = .supplied →
      completes (.itf c a) s (floatEffect c 4#32 (Config.fpItf s.opWidth (operand s a)) s) ∧
      completes (.fti c a) s (floatEffect c 4#32 (Config.fpFti s.opWidth (operand s a)) s) ∧
      completes (.sqr c a) s (floatEffect c 4#32 (Config.fpSqr s.opWidth (operand s a)) s)) ∧
    (s.cfg.fp = .none →
      exec (.itf c a) s = .refused .floatingPointNotSpecified ∧ exec (.fti c a) s = .refused .floatingPointNotSpecified ∧
      exec (.sqr c a) s = .refused .floatingPointNotSpecified)

/-- FPM = 1: every integer ALU operation does what `FpNumerics.alu` answers for its opcode, function field, width, operands
and SR.C; write-back, length and frame as before; refused where FpNumerics is none (R287, R291). The spec's own decision
D32; no second operand for shifts and MC left alone are log entry 9. -/
def Obligations.FloatingMode : Prop :=
  ∀ (s : State) (c a b : RegNum) (imm : BitVec 14) (long : BitVec 46), s.fpm = true →
    let y := operand s b
    let answers : Instr → Addr → BitVec 5 → BitVec 3 → BitVec s.opWidth → Prop := fun i length op fn second =>
      (s.cfg.fp = .supplied → completes i s (floatEffect c length (Config.fpAlu op fn s.opWidth (operand s a) second s.sr.c) s)) ∧
      (s.cfg.fp = .none → exec i s = .refused .floatingPointNotSpecified)
    answers (.add c a b) 4#32 0b00000 0 y ∧
    answers (.adc c a b) 4#32 0b00000 1 y ∧
    answers (.sub c a b) 4#32 0b00000 2 y ∧
    answers (.sbc c a b) 4#32 0b00000 3 y ∧
    answers (.and c a b) 4#32 0b00000 4 y ∧
    answers (.or c a b) 4#32 0b00000 5 y ∧
    answers (.xor c a b) 4#32 0b00000 6 y ∧
    answers (.addi c a imm) 4#32 0b00001 0 (immediate s imm) ∧
    answers (.adci c a imm) 4#32 0b00001 1 (immediate s imm) ∧
    answers (.subi c a imm) 4#32 0b00001 2 (immediate s imm) ∧
    answers (.sbci c a imm) 4#32 0b00001 3 (immediate s imm) ∧
    answers (.andi c a imm) 4#32 0b00001 4 (immediate s imm) ∧
    answers (.ori c a imm) 4#32 0b00001 5 (immediate s imm) ∧
    answers (.xori c a imm) 4#32 0b00001 6 (immediate s imm) ∧
    answers (.shr c a) 4#32 0b00010 0 0 ∧
    answers (.asr c a) 4#32 0b00010 1 0 ∧
    answers (.srn c a) 4#32 0b00010 2 0 ∧
    answers (.ror c a) 4#32 0b00010 3 0 ∧
    answers (.sln c a) 4#32 0b00010 4 0 ∧
    answers (.addi64 c a long) 8#32 0b10000 0 (immediate s long) ∧
    answers (.adci64 c a long) 8#32 0b10000 1 (immediate s long) ∧
    answers (.subi64 c a long) 8#32 0b10000 2 (immediate s long) ∧
    answers (.sbci64 c a long) 8#32 0b10000 3 (immediate s long) ∧
    answers (.andi64 c a long) 8#32 0b10000 4 (immediate s long) ∧
    answers (.ori64 c a long) 8#32 0b10000 5 (immediate s long) ∧
    answers (.xori64 c a long) 8#32 0b10000 6 (immediate s long) ∧
    answers (.mul c a b) 4#32 0b10110 0 y ∧
    answers (.mlc c a b) 4#32 0b10110 1 y ∧
    answers (.div c a b) 4#32 0b10110 2 y ∧
    answers (.mod c a b) 4#32 0b10110 4 y

/-! The platform's bytes and the end of a run (20_memory.md R69 to R71, 60_exceptions.md R329, R330). -/

/-- What a platform is presented with (R69, R70, R71, R80): nothing where the bytes are plain memory; else the read or
write, an aligned one of up to four bytes as one transfer, of eight as two of four, the lower address first, a misaligned
one byte by byte (R68). The spec's own decisions D26, D39 and D40; log entries 11 and 19. -/
def Obligations.TransfersOfAnAccess : Prop :=
  ∀ (s : State) (a : Addr) (n : Size) (bs : List Byte),
    (inMemory s a n.bytes → s.present (readTransfers a n) = s ∧ s.present (writeTransfers a n bs) = s) ∧
    ((∀ k < n.bytes, isPlain s.cfg (a + BitVec.ofNat 32 k) = false) → bs.length = n.bytes →
      (s.present (readTransfers a n)).presented = s.presented ++ readTransfers a n ∧
      (s.present (writeTransfers a n bs)).presented = s.presented ++ writeTransfers a n bs) ∧
    (n ≠ .qword → a.toNat % n.bytes = 0 → bs.length = n.bytes →
      readTransfers a n = [.read a n.bytes] ∧ writeTransfers a n bs = [.write a bs]) ∧
    (n = .qword → a.toNat % 4 = 0 → bs.length = 8 →
      readTransfers a n = [.read a 4, .read (a + 4#32) 4] ∧
      writeTransfers a n bs = [.write a (bs.take 4), .write (a + 4#32) (bs.drop 4)]) ∧
    (a.toNat % min n.bytes 4 ≠ 0 →
      readTransfers a n = (List.range n.bytes).map fun k => .read (a + BitVec.ofNat 32 k) 1)

/-- The end of a run (R330): the self-jump `JMP EPC, 0` is one where no interrupt comes and EPC_READ_OFFSET is 0 (R329), and
a run that has ended stays ended, whatever of the platform's answers is used up, unless the step presents a device with a
transfer. The spec's own decision D45; the transfers presented are log entry 11. -/
def Obligations.EndOfRun : Prop :=
  (∀ s : State, noInterruptComes s → fetchAllowed s s.pc → s.cfg.epcOffset = .zero → wordAt s s.pc = 0x27C00000#32 →
    AtEnd s) ∧
  (∀ s t : State, AtEnd s → step s = .next t → t.presented = s.presented → AtEnd t ∧ atFixedPoint s t)
end

