-- ==== Sys2Proof/Laws/Decode.lean ====
section
/-! SUPPORT. The fields of each format (30_encoding.md R94 to R103), and its bits under the masks of the opcode table. -/

namespace Sys2Proof

/-- A field that lies in the low part of a concatenation. -/
theorem field_low {n m : Nat} (x : BitVec n) (y : BitVec m) (lo len : Nat) (h : lo + len ≤ m) :
    (x ++ y).extractLsb' lo len = y.extractLsb' lo len := by
  ext i hi
  simp only [BitVec.getElem_extractLsb', BitVec.getLsbD_append]
  have : lo + i < m := by omega
  simp [this]

/-- A field that lies in the high part of a concatenation. -/
theorem field_high {n m : Nat} (x : BitVec n) (y : BitVec m) (lo len : Nat) (h : m ≤ lo) :
    (x ++ y).extractLsb' lo len = x.extractLsb' (lo - m) len := by
  ext i hi
  simp only [BitVec.getElem_extractLsb', BitVec.getLsbD_append]
  have h' : ¬ lo + i < m := by omega
  simp only [h', if_false]
  congr 1
  omega

theorem field_all {n : Nat} (x : BitVec n) : x.extractLsb' 0 n = x := by
  ext i hi
  simp

/-- A conjunction of concatenations is taken part by part. -/
theorem and_parts {n m : Nat} (x p : BitVec n) (y q : BitVec m) : (x ++ y) &&& (p ++ q) = (x &&& p) ++ (y &&& q) := by
  ext i hi
  simp only [BitVec.getElem_and, BitVec.getElem_append]
  split <;> simp

theorem and_ones {n : Nat} (x : BitVec n) : x &&& BitVec.allOnes n = x := by simp

theorem and_zeros {n : Nat} (x : BitVec n) : x &&& 0#n = 0#n := by simp

/-! Format 1. -/

@[simp] theorem format1_op (op : BitVec 5) (table : BitVec 4) : (format1 op table).extractLsb' 27 5 = op :=
  (field_high (op ++ table) 0#23 27 5 (by decide)).trans ((field_high op table 4 5 (by decide)).trans (field_all op))
@[simp] theorem format1_table (op : BitVec 5) (table : BitVec 4) : (format1 op table).extractLsb' 23 4 = table :=
  (field_high (op ++ table) 0#23 23 4 (by decide)).trans ((field_low op table 0 4 (by decide)).trans (field_all table))

theorem format1_mask (op : BitVec 5) (table : BitVec 4) : format1 op table &&& 0xF8000000#32 = format1 op 0#4 :=
  (and_parts (op ++ table) (BitVec.allOnes 5 ++ 0#4) 0#23 (0#23)).trans (congrArg₂ (· ++ ·) ((and_parts (op) (BitVec.allOnes 5) table (0#4)).trans (congrArg₂ (· ++ ·) (and_ones op) (and_zeros (table : BitVec 4)))) (and_zeros (0#23 : BitVec 23)))

/-! Format 2. -/

@[simp] theorem format2_op (op : BitVec 5) (c : BitVec 5) (imm : BitVec 22) : (format2 op c imm).extractLsb' 27 5 = op :=
  (field_high (op ++ c) imm 27 5 (by decide)).trans ((field_high op c 5 5 (by decide)).trans (field_all op))
@[simp] theorem format2_c (op : BitVec 5) (c : BitVec 5) (imm : BitVec 22) : (format2 op c imm).extractLsb' 22 5 = c :=
  (field_high (op ++ c) imm 22 5 (by decide)).trans ((field_low op c 0 5 (by decide)).trans (field_all c))
@[simp] theorem format2_imm (op : BitVec 5) (c : BitVec 5) (imm : BitVec 22) : (format2 op c imm).extractLsb' 0 22 = imm :=
  (field_low (op ++ c) imm 0 22 (by decide)).trans (field_all imm)

theorem format2_mask (op : BitVec 5) (c : BitVec 5) (imm : BitVec 22) : format2 op c imm &&& 0xF8000000#32 = format2 op 0#5 0#22 :=
  (and_parts (op ++ c) (BitVec.allOnes 5 ++ 0#5) imm (0#22)).trans (congrArg₂ (· ++ ·) ((and_parts (op) (BitVec.allOnes 5) c (0#5)).trans (congrArg₂ (· ++ ·) (and_ones op) (and_zeros (c : BitVec 5)))) (and_zeros (imm : BitVec 22)))

/-! Format 3. -/

@[simp] theorem format3_op (op : BitVec 5) (c : BitVec 5) (a : BitVec 5) (fn : BitVec 2) (imm : BitVec 15) : (format3 op c a fn imm).extractLsb' 27 5 = op :=
  (field_high (op ++ c ++ a ++ fn) imm 27 5 (by decide)).trans ((field_high (op ++ c ++ a) fn 12 5 (by decide)).trans ((field_high (op ++ c) a 10 5 (by decide)).trans ((field_high op c 5 5 (by decide)).trans (field_all op))))
@[simp] theorem format3_c (op : BitVec 5) (c : BitVec 5) (a : BitVec 5) (fn : BitVec 2) (imm : BitVec 15) : (format3 op c a fn imm).extractLsb' 22 5 = c :=
  (field_high (op ++ c ++ a ++ fn) imm 22 5 (by decide)).trans ((field_high (op ++ c ++ a) fn 7 5 (by decide)).trans ((field_high (op ++ c) a 5 5 (by decide)).trans ((field_low op c 0 5 (by decide)).trans (field_all c))))
@[simp] theorem format3_a (op : BitVec 5) (c : BitVec 5) (a : BitVec 5) (fn : BitVec 2) (imm : BitVec 15) : (format3 op c a fn imm).extractLsb' 17 5 = a :=
  (field_high (op ++ c ++ a ++ fn) imm 17 5 (by decide)).trans ((field_high (op ++ c ++ a) fn 2 5 (by decide)).trans ((field_low (op ++ c) a 0 5 (by decide)).trans (field_all a)))
@[simp] theorem format3_fn (op : BitVec 5) (c : BitVec 5) (a : BitVec 5) (fn : BitVec 2) (imm : BitVec 15) : (format3 op c a fn imm).extractLsb' 15 2 = fn :=
  (field_high (op ++ c ++ a ++ fn) imm 15 2 (by decide)).trans ((field_low (op ++ c ++ a) fn 0 2 (by decide)).trans (field_all fn))
@[simp] theorem format3_imm (op : BitVec 5) (c : BitVec 5) (a : BitVec 5) (fn : BitVec 2) (imm : BitVec 15) : (format3 op c a fn imm).extractLsb' 0 15 = imm :=
  (field_low (op ++ c ++ a ++ fn) imm 0 15 (by decide)).trans (field_all imm)

theorem format3_mask (op : BitVec 5) (c : BitVec 5) (a : BitVec 5) (fn : BitVec 2) (imm : BitVec 15) : format3 op c a fn imm &&& 0xF8018000#32 = format3 op 0#5 0#5 fn 0#15 :=
  (and_parts (op ++ c ++ a ++ fn) (BitVec.allOnes 5 ++ 0#5 ++ 0#5 ++ BitVec.allOnes 2) imm (0#15)).trans (congrArg₂ (· ++ ·) ((and_parts (op ++ c ++ a) (BitVec.allOnes 5 ++ 0#5 ++ 0#5) fn (BitVec.allOnes 2)).trans (congrArg₂ (· ++ ·) ((and_parts (op ++ c) (BitVec.allOnes 5 ++ 0#5) a (0#5)).trans (congrArg₂ (· ++ ·) ((and_parts (op) (BitVec.allOnes 5) c (0#5)).trans (congrArg₂ (· ++ ·) (and_ones op) (and_zeros (c : BitVec 5)))) (and_zeros (a : BitVec 5)))) (and_ones fn))) (and_zeros (imm : BitVec 15)))

theorem format3_maskOpcode (op : BitVec 5) (c : BitVec 5) (a : BitVec 5) (fn : BitVec 2) (imm : BitVec 15) : format3 op c a fn imm &&& 0xF8000000#32 = format3 op 0#5 0#5 0#2 0#15 :=
  (and_parts (op ++ c ++ a ++ fn) (BitVec.allOnes 5 ++ 0#5 ++ 0#5 ++ 0#2) imm (0#15)).trans (congrArg₂ (· ++ ·) ((and_parts (op ++ c ++ a) (BitVec.allOnes 5 ++ 0#5 ++ 0#5) fn (0#2)).trans (congrArg₂ (· ++ ·) ((and_parts (op ++ c) (BitVec.allOnes 5 ++ 0#5) a (0#5)).trans (congrArg₂ (· ++ ·) ((and_parts (op) (BitVec.allOnes 5) c (0#5)).trans (congrArg₂ (· ++ ·) (and_ones op) (and_zeros (c : BitVec 5)))) (and_zeros (a : BitVec 5)))) (and_zeros (fn : BitVec 2)))) (and_zeros (imm : BitVec 15)))

/-! Format 4. -/

@[simp] theorem format4_op (op : BitVec 5) (c : BitVec 5) (fn : BitVec 3) (imm : BitVec 19) : (format4 op c fn imm).extractLsb' 27 5 = op :=
  (field_high (op ++ c ++ fn) imm 27 5 (by decide)).trans ((field_high (op ++ c) fn 8 5 (by decide)).trans ((field_high op c 5 5 (by decide)).trans (field_all op)))
@[simp] theorem format4_c (op : BitVec 5) (c : BitVec 5) (fn : BitVec 3) (imm : BitVec 19) : (format4 op c fn imm).extractLsb' 22 5 = c :=
  (field_high (op ++ c ++ fn) imm 22 5 (by decide)).trans ((field_high (op ++ c) fn 3 5 (by decide)).trans ((field_low op c 0 5 (by decide)).trans (field_all c)))
@[simp] theorem format4_fn (op : BitVec 5) (c : BitVec 5) (fn : BitVec 3) (imm : BitVec 19) : (format4 op c fn imm).extractLsb' 19 3 = fn :=
  (field_high (op ++ c ++ fn) imm 19 3 (by decide)).trans ((field_low (op ++ c) fn 0 3 (by decide)).trans (field_all fn))
@[simp] theorem format4_imm (op : BitVec 5) (c : BitVec 5) (fn : BitVec 3) (imm : BitVec 19) : (format4 op c fn imm).extractLsb' 0 19 = imm :=
  (field_low (op ++ c ++ fn) imm 0 19 (by decide)).trans (field_all imm)

theorem format4_mask (op : BitVec 5) (c : BitVec 5) (fn : BitVec 3) (imm : BitVec 19) : format4 op c fn imm &&& 0xF8380000#32 = format4 op 0#5 fn 0#19 :=
  (and_parts (op ++ c ++ fn) (BitVec.allOnes 5 ++ 0#5 ++ BitVec.allOnes 3) imm (0#19)).trans (congrArg₂ (· ++ ·) ((and_parts (op ++ c) (BitVec.allOnes 5 ++ 0#5) fn (BitVec.allOnes 3)).trans (congrArg₂ (· ++ ·) ((and_parts (op) (BitVec.allOnes 5) c (0#5)).trans (congrArg₂ (· ++ ·) (and_ones op) (and_zeros (c : BitVec 5)))) (and_ones fn))) (and_zeros (imm : BitVec 19)))

/-! Format 5. -/

@[simp] theorem format5_op (op : BitVec 5) (c : BitVec 5) (a : BitVec 5) (b : BitVec 5) (fn : BitVec 3) : (format5 op c a b fn).extractLsb' 27 5 = op :=
  (field_high (op ++ c ++ a ++ b ++ fn) 0#9 27 5 (by decide)).trans ((field_high (op ++ c ++ a ++ b) fn 18 5 (by decide)).trans ((field_high (op ++ c ++ a) b 15 5 (by decide)).trans ((field_high (op ++ c) a 10 5 (by decide)).trans ((field_high op c 5 5 (by decide)).trans (field_all op)))))
@[simp] theorem format5_c (op : BitVec 5) (c : BitVec 5) (a : BitVec 5) (b : BitVec 5) (fn : BitVec 3) : (format5 op c a b fn).extractLsb' 22 5 = c :=
  (field_high (op ++ c ++ a ++ b ++ fn) 0#9 22 5 (by decide)).trans ((field_high (op ++ c ++ a ++ b) fn 13 5 (by decide)).trans ((field_high (op ++ c ++ a) b 10 5 (by decide)).trans ((field_high (op ++ c) a 5 5 (by decide)).trans ((field_low op c 0 5 (by decide)).trans (field_all c)))))
@[simp] theorem format5_a (op : BitVec 5) (c : BitVec 5) (a : BitVec 5) (b : BitVec 5) (fn : BitVec 3) : (format5 op c a b fn).extractLsb' 17 5 = a :=
  (field_high (op ++ c ++ a ++ b ++ fn) 0#9 17 5 (by decide)).trans ((field_high (op ++ c ++ a ++ b) fn 8 5 (by decide)).trans ((field_high (op ++ c ++ a) b 5 5 (by decide)).trans ((field_low (op ++ c) a 0 5 (by decide)).trans (field_all a))))
@[simp] theorem format5_b (op : BitVec 5) (c : BitVec 5) (a : BitVec 5) (b : BitVec 5) (fn : BitVec 3) : (format5 op c a b fn).extractLsb' 12 5 = b :=
  (field_high (op ++ c ++ a ++ b ++ fn) 0#9 12 5 (by decide)).trans ((field_high (op ++ c ++ a ++ b) fn 3 5 (by decide)).trans ((field_low (op ++ c ++ a) b 0 5 (by decide)).trans (field_all b)))
@[simp] theorem format5_fn (op : BitVec 5) (c : BitVec 5) (a : BitVec 5) (b : BitVec 5) (fn : BitVec 3) : (format5 op c a b fn).extractLsb' 9 3 = fn :=
  (field_high (op ++ c ++ a ++ b ++ fn) 0#9 9 3 (by decide)).trans ((field_low (op ++ c ++ a ++ b) fn 0 3 (by decide)).trans (field_all fn))

theorem format5_mask (op : BitVec 5) (c : BitVec 5) (a : BitVec 5) (b : BitVec 5) (fn : BitVec 3) : format5 op c a b fn &&& 0xF8000E00#32 = format5 op 0#5 0#5 0#5 fn :=
  (and_parts (op ++ c ++ a ++ b ++ fn) (BitVec.allOnes 5 ++ 0#5 ++ 0#5 ++ 0#5 ++ BitVec.allOnes 3) 0#9 (0#9)).trans (congrArg₂ (· ++ ·) ((and_parts (op ++ c ++ a ++ b) (BitVec.allOnes 5 ++ 0#5 ++ 0#5 ++ 0#5) fn (BitVec.allOnes 3)).trans (congrArg₂ (· ++ ·) ((and_parts (op ++ c ++ a) (BitVec.allOnes 5 ++ 0#5 ++ 0#5) b (0#5)).trans (congrArg₂ (· ++ ·) ((and_parts (op ++ c) (BitVec.allOnes 5 ++ 0#5) a (0#5)).trans (congrArg₂ (· ++ ·) ((and_parts (op) (BitVec.allOnes 5) c (0#5)).trans (congrArg₂ (· ++ ·) (and_ones op) (and_zeros (c : BitVec 5)))) (and_zeros (a : BitVec 5)))) (and_zeros (b : BitVec 5)))) (and_ones fn))) (and_zeros (0#9 : BitVec 9)))

/-! Format 6. -/

@[simp] theorem format6_op (op : BitVec 5) (c : BitVec 5) (a : BitVec 5) (fn : BitVec 3) (imm : BitVec 14) : (format6 op c a fn imm).extractLsb' 27 5 = op :=
  (field_high (op ++ c ++ a ++ fn) imm 27 5 (by decide)).trans ((field_high (op ++ c ++ a) fn 13 5 (by decide)).trans ((field_high (op ++ c) a 10 5 (by decide)).trans ((field_high op c 5 5 (by decide)).trans (field_all op))))
@[simp] theorem format6_c (op : BitVec 5) (c : BitVec 5) (a : BitVec 5) (fn : BitVec 3) (imm : BitVec 14) : (format6 op c a fn imm).extractLsb' 22 5 = c :=
  (field_high (op ++ c ++ a ++ fn) imm 22 5 (by decide)).trans ((field_high (op ++ c ++ a) fn 8 5 (by decide)).trans ((field_high (op ++ c) a 5 5 (by decide)).trans ((field_low op c 0 5 (by decide)).trans (field_all c))))
@[simp] theorem format6_a (op : BitVec 5) (c : BitVec 5) (a : BitVec 5) (fn : BitVec 3) (imm : BitVec 14) : (format6 op c a fn imm).extractLsb' 17 5 = a :=
  (field_high (op ++ c ++ a ++ fn) imm 17 5 (by decide)).trans ((field_high (op ++ c ++ a) fn 3 5 (by decide)).trans ((field_low (op ++ c) a 0 5 (by decide)).trans (field_all a)))
@[simp] theorem format6_fn (op : BitVec 5) (c : BitVec 5) (a : BitVec 5) (fn : BitVec 3) (imm : BitVec 14) : (format6 op c a fn imm).extractLsb' 14 3 = fn :=
  (field_high (op ++ c ++ a ++ fn) imm 14 3 (by decide)).trans ((field_low (op ++ c ++ a) fn 0 3 (by decide)).trans (field_all fn))
@[simp] theorem format6_imm (op : BitVec 5) (c : BitVec 5) (a : BitVec 5) (fn : BitVec 3) (imm : BitVec 14) : (format6 op c a fn imm).extractLsb' 0 14 = imm :=
  (field_low (op ++ c ++ a ++ fn) imm 0 14 (by decide)).trans (field_all imm)

theorem format6_mask (op : BitVec 5) (c : BitVec 5) (a : BitVec 5) (fn : BitVec 3) (imm : BitVec 14) : format6 op c a fn imm &&& 0xF801C000#32 = format6 op 0#5 0#5 fn 0#14 :=
  (and_parts (op ++ c ++ a ++ fn) (BitVec.allOnes 5 ++ 0#5 ++ 0#5 ++ BitVec.allOnes 3) imm (0#14)).trans (congrArg₂ (· ++ ·) ((and_parts (op ++ c ++ a) (BitVec.allOnes 5 ++ 0#5 ++ 0#5) fn (BitVec.allOnes 3)).trans (congrArg₂ (· ++ ·) ((and_parts (op ++ c) (BitVec.allOnes 5 ++ 0#5) a (0#5)).trans (congrArg₂ (· ++ ·) ((and_parts (op) (BitVec.allOnes 5) c (0#5)).trans (congrArg₂ (· ++ ·) (and_ones op) (and_zeros (c : BitVec 5)))) (and_zeros (a : BitVec 5)))) (and_ones fn))) (and_zeros (imm : BitVec 14)))

/-! Format 7. -/

@[simp] theorem format7_op (op : BitVec 5) (c : BitVec 5) (a : BitVec 5) (fn : BitVec 3) : (format7 op c a fn).extractLsb' 27 5 = op :=
  (field_high (op ++ c ++ a ++ fn) 0#14 27 5 (by decide)).trans ((field_high (op ++ c ++ a) fn 13 5 (by decide)).trans ((field_high (op ++ c) a 10 5 (by decide)).trans ((field_high op c 5 5 (by decide)).trans (field_all op))))
@[simp] theorem format7_c (op : BitVec 5) (c : BitVec 5) (a : BitVec 5) (fn : BitVec 3) : (format7 op c a fn).extractLsb' 22 5 = c :=
  (field_high (op ++ c ++ a ++ fn) 0#14 22 5 (by decide)).trans ((field_high (op ++ c ++ a) fn 8 5 (by decide)).trans ((field_high (op ++ c) a 5 5 (by decide)).trans ((field_low op c 0 5 (by decide)).trans (field_all c))))
@[simp] theorem format7_a (op : BitVec 5) (c : BitVec 5) (a : BitVec 5) (fn : BitVec 3) : (format7 op c a fn).extractLsb' 17 5 = a :=
  (field_high (op ++ c ++ a ++ fn) 0#14 17 5 (by decide)).trans ((field_high (op ++ c ++ a) fn 3 5 (by decide)).trans ((field_low (op ++ c) a 0 5 (by decide)).trans (field_all a)))
@[simp] theorem format7_fn (op : BitVec 5) (c : BitVec 5) (a : BitVec 5) (fn : BitVec 3) : (format7 op c a fn).extractLsb' 14 3 = fn :=
  (field_high (op ++ c ++ a ++ fn) 0#14 14 3 (by decide)).trans ((field_low (op ++ c ++ a) fn 0 3 (by decide)).trans (field_all fn))

theorem format7_mask (op : BitVec 5) (c : BitVec 5) (a : BitVec 5) (fn : BitVec 3) : format7 op c a fn &&& 0xF801C000#32 = format7 op 0#5 0#5 fn :=
  (and_parts (op ++ c ++ a ++ fn) (BitVec.allOnes 5 ++ 0#5 ++ 0#5 ++ BitVec.allOnes 3) 0#14 (0#14)).trans (congrArg₂ (· ++ ·) ((and_parts (op ++ c ++ a) (BitVec.allOnes 5 ++ 0#5 ++ 0#5) fn (BitVec.allOnes 3)).trans (congrArg₂ (· ++ ·) ((and_parts (op ++ c) (BitVec.allOnes 5 ++ 0#5) a (0#5)).trans (congrArg₂ (· ++ ·) ((and_parts (op) (BitVec.allOnes 5) c (0#5)).trans (congrArg₂ (· ++ ·) (and_ones op) (and_zeros (c : BitVec 5)))) (and_zeros (a : BitVec 5)))) (and_ones fn))) (and_zeros (0#14 : BitVec 14)))

/-! Format 8. -/

@[simp] theorem format8_op (op : BitVec 5) : (format8 op).extractLsb' 27 5 = op :=
  (field_high op 0#27 27 5 (by decide)).trans (field_all op)

theorem format8_mask (op : BitVec 5) : format8 op &&& 0xF8000000#32 = format8 op :=
  (and_parts (op) (BitVec.allOnes 5) 0#27 (0#27)).trans (congrArg₂ (· ++ ·) (and_ones op) (and_zeros (0#27 : BitVec 27)))

/-! Format 9. -/

@[simp] theorem format9_op (op : BitVec 5) (bit : BitVec 4) (sel : BitVec 1) : (format9 op bit sel).extractLsb' 27 5 = op :=
  (field_high (op ++ bit ++ sel) 0#22 27 5 (by decide)).trans ((field_high (op ++ bit) sel 5 5 (by decide)).trans ((field_high op bit 4 5 (by decide)).trans (field_all op)))
@[simp] theorem format9_bit (op : BitVec 5) (bit : BitVec 4) (sel : BitVec 1) : (format9 op bit sel).extractLsb' 23 4 = bit :=
  (field_high (op ++ bit ++ sel) 0#22 23 4 (by decide)).trans ((field_high (op ++ bit) sel 1 4 (by decide)).trans ((field_low op bit 0 4 (by decide)).trans (field_all bit)))
@[simp] theorem format9_sel (op : BitVec 5) (bit : BitVec 4) (sel : BitVec 1) : (format9 op bit sel).extractLsb' 22 1 = sel :=
  (field_high (op ++ bit ++ sel) 0#22 22 1 (by decide)).trans ((field_low (op ++ bit) sel 0 1 (by decide)).trans (field_all sel))

theorem format9_mask (op : BitVec 5) (bit : BitVec 4) (sel : BitVec 1) : format9 op bit sel &&& 0xF8400000#32 = format9 op 0#4 sel :=
  (and_parts (op ++ bit ++ sel) (BitVec.allOnes 5 ++ 0#4 ++ BitVec.allOnes 1) 0#22 (0#22)).trans (congrArg₂ (· ++ ·) ((and_parts (op ++ bit) (BitVec.allOnes 5 ++ 0#4) sel (BitVec.allOnes 1)).trans (congrArg₂ (· ++ ·) ((and_parts (op) (BitVec.allOnes 5) bit (0#4)).trans (congrArg₂ (· ++ ·) (and_ones op) (and_zeros (bit : BitVec 4)))) (and_ones sel))) (and_zeros (0#22 : BitVec 22)))

/-! Format 10. -/

@[simp] theorem format10_op (op : BitVec 5) (c : BitVec 5) (imm : BitVec 54) : (format10 op c imm).extractLsb' 59 5 = op :=
  (field_high (op ++ c) imm 59 5 (by decide)).trans ((field_high op c 5 5 (by decide)).trans (field_all op))
@[simp] theorem format10_c (op : BitVec 5) (c : BitVec 5) (imm : BitVec 54) : (format10 op c imm).extractLsb' 54 5 = c :=
  (field_high (op ++ c) imm 54 5 (by decide)).trans ((field_low op c 0 5 (by decide)).trans (field_all c))
@[simp] theorem format10_imm (op : BitVec 5) (c : BitVec 5) (imm : BitVec 54) : (format10 op c imm).extractLsb' 0 54 = imm :=
  (field_low (op ++ c) imm 0 54 (by decide)).trans (field_all imm)

theorem format10_mask (op : BitVec 5) (c : BitVec 5) (imm : BitVec 54) : format10 op c imm &&& 0xF800000000000000#64 = format10 op 0#5 0#54 :=
  (and_parts (op ++ c) (BitVec.allOnes 5 ++ 0#5) imm (0#54)).trans (congrArg₂ (· ++ ·) ((and_parts (op) (BitVec.allOnes 5) c (0#5)).trans (congrArg₂ (· ++ ·) (and_ones op) (and_zeros (c : BitVec 5)))) (and_zeros (imm : BitVec 54)))

/-! Format 11. -/

@[simp] theorem format11_op (op : BitVec 5) (c : BitVec 5) (a : BitVec 5) (fn : BitVec 2) (imm : BitVec 47) : (format11 op c a fn imm).extractLsb' 59 5 = op :=
  (field_high (op ++ c ++ a ++ fn) imm 59 5 (by decide)).trans ((field_high (op ++ c ++ a) fn 12 5 (by decide)).trans ((field_high (op ++ c) a 10 5 (by decide)).trans ((field_high op c 5 5 (by decide)).trans (field_all op))))
@[simp] theorem format11_c (op : BitVec 5) (c : BitVec 5) (a : BitVec 5) (fn : BitVec 2) (imm : BitVec 47) : (format11 op c a fn imm).extractLsb' 54 5 = c :=
  (field_high (op ++ c ++ a ++ fn) imm 54 5 (by decide)).trans ((field_high (op ++ c ++ a) fn 7 5 (by decide)).trans ((field_high (op ++ c) a 5 5 (by decide)).trans ((field_low op c 0 5 (by decide)).trans (field_all c))))
@[simp] theorem format11_a (op : BitVec 5) (c : BitVec 5) (a : BitVec 5) (fn : BitVec 2) (imm : BitVec 47) : (format11 op c a fn imm).extractLsb' 49 5 = a :=
  (field_high (op ++ c ++ a ++ fn) imm 49 5 (by decide)).trans ((field_high (op ++ c ++ a) fn 2 5 (by decide)).trans ((field_low (op ++ c) a 0 5 (by decide)).trans (field_all a)))
@[simp] theorem format11_fn (op : BitVec 5) (c : BitVec 5) (a : BitVec 5) (fn : BitVec 2) (imm : BitVec 47) : (format11 op c a fn imm).extractLsb' 47 2 = fn :=
  (field_high (op ++ c ++ a ++ fn) imm 47 2 (by decide)).trans ((field_low (op ++ c ++ a) fn 0 2 (by decide)).trans (field_all fn))
@[simp] theorem format11_imm (op : BitVec 5) (c : BitVec 5) (a : BitVec 5) (fn : BitVec 2) (imm : BitVec 47) : (format11 op c a fn imm).extractLsb' 0 47 = imm :=
  (field_low (op ++ c ++ a ++ fn) imm 0 47 (by decide)).trans (field_all imm)

theorem format11_mask (op : BitVec 5) (c : BitVec 5) (a : BitVec 5) (fn : BitVec 2) (imm : BitVec 47) : format11 op c a fn imm &&& 0xF801800000000000#64 = format11 op 0#5 0#5 fn 0#47 :=
  (and_parts (op ++ c ++ a ++ fn) (BitVec.allOnes 5 ++ 0#5 ++ 0#5 ++ BitVec.allOnes 2) imm (0#47)).trans (congrArg₂ (· ++ ·) ((and_parts (op ++ c ++ a) (BitVec.allOnes 5 ++ 0#5 ++ 0#5) fn (BitVec.allOnes 2)).trans (congrArg₂ (· ++ ·) ((and_parts (op ++ c) (BitVec.allOnes 5 ++ 0#5) a (0#5)).trans (congrArg₂ (· ++ ·) ((and_parts (op) (BitVec.allOnes 5) c (0#5)).trans (congrArg₂ (· ++ ·) (and_ones op) (and_zeros (c : BitVec 5)))) (and_zeros (a : BitVec 5)))) (and_ones fn))) (and_zeros (imm : BitVec 47)))

/-! Format 12. -/

@[simp] theorem format12_op (op : BitVec 5) (c : BitVec 5) (fn : BitVec 3) (imm : BitVec 51) : (format12 op c fn imm).extractLsb' 59 5 = op :=
  (field_high (op ++ c ++ fn) imm 59 5 (by decide)).trans ((field_high (op ++ c) fn 8 5 (by decide)).trans ((field_high op c 5 5 (by decide)).trans (field_all op)))
@[simp] theorem format12_c (op : BitVec 5) (c : BitVec 5) (fn : BitVec 3) (imm : BitVec 51) : (format12 op c fn imm).extractLsb' 54 5 = c :=
  (field_high (op ++ c ++ fn) imm 54 5 (by decide)).trans ((field_high (op ++ c) fn 3 5 (by decide)).trans ((field_low op c 0 5 (by decide)).trans (field_all c)))
@[simp] theorem format12_fn (op : BitVec 5) (c : BitVec 5) (fn : BitVec 3) (imm : BitVec 51) : (format12 op c fn imm).extractLsb' 51 3 = fn :=
  (field_high (op ++ c ++ fn) imm 51 3 (by decide)).trans ((field_low (op ++ c) fn 0 3 (by decide)).trans (field_all fn))
@[simp] theorem format12_imm (op : BitVec 5) (c : BitVec 5) (fn : BitVec 3) (imm : BitVec 51) : (format12 op c fn imm).extractLsb' 0 51 = imm :=
  (field_low (op ++ c ++ fn) imm 0 51 (by decide)).trans (field_all imm)

theorem format12_mask (op : BitVec 5) (c : BitVec 5) (fn : BitVec 3) (imm : BitVec 51) : format12 op c fn imm &&& 0xF838000000000000#64 = format12 op 0#5 fn 0#51 :=
  (and_parts (op ++ c ++ fn) (BitVec.allOnes 5 ++ 0#5 ++ BitVec.allOnes 3) imm (0#51)).trans (congrArg₂ (· ++ ·) ((and_parts (op ++ c) (BitVec.allOnes 5 ++ 0#5) fn (BitVec.allOnes 3)).trans (congrArg₂ (· ++ ·) ((and_parts (op) (BitVec.allOnes 5) c (0#5)).trans (congrArg₂ (· ++ ·) (and_ones op) (and_zeros (c : BitVec 5)))) (and_ones fn))) (and_zeros (imm : BitVec 51)))

/-! Format 13. -/

@[simp] theorem format13_op (op : BitVec 5) (c : BitVec 5) (a : BitVec 5) (fn : BitVec 3) (imm : BitVec 46) : (format13 op c a fn imm).extractLsb' 59 5 = op :=
  (field_high (op ++ c ++ a ++ fn) imm 59 5 (by decide)).trans ((field_high (op ++ c ++ a) fn 13 5 (by decide)).trans ((field_high (op ++ c) a 10 5 (by decide)).trans ((field_high op c 5 5 (by decide)).trans (field_all op))))
@[simp] theorem format13_c (op : BitVec 5) (c : BitVec 5) (a : BitVec 5) (fn : BitVec 3) (imm : BitVec 46) : (format13 op c a fn imm).extractLsb' 54 5 = c :=
  (field_high (op ++ c ++ a ++ fn) imm 54 5 (by decide)).trans ((field_high (op ++ c ++ a) fn 8 5 (by decide)).trans ((field_high (op ++ c) a 5 5 (by decide)).trans ((field_low op c 0 5 (by decide)).trans (field_all c))))
@[simp] theorem format13_a (op : BitVec 5) (c : BitVec 5) (a : BitVec 5) (fn : BitVec 3) (imm : BitVec 46) : (format13 op c a fn imm).extractLsb' 49 5 = a :=
  (field_high (op ++ c ++ a ++ fn) imm 49 5 (by decide)).trans ((field_high (op ++ c ++ a) fn 3 5 (by decide)).trans ((field_low (op ++ c) a 0 5 (by decide)).trans (field_all a)))
@[simp] theorem format13_fn (op : BitVec 5) (c : BitVec 5) (a : BitVec 5) (fn : BitVec 3) (imm : BitVec 46) : (format13 op c a fn imm).extractLsb' 46 3 = fn :=
  (field_high (op ++ c ++ a ++ fn) imm 46 3 (by decide)).trans ((field_low (op ++ c ++ a) fn 0 3 (by decide)).trans (field_all fn))
@[simp] theorem format13_imm (op : BitVec 5) (c : BitVec 5) (a : BitVec 5) (fn : BitVec 3) (imm : BitVec 46) : (format13 op c a fn imm).extractLsb' 0 46 = imm :=
  (field_low (op ++ c ++ a ++ fn) imm 0 46 (by decide)).trans (field_all imm)

theorem format13_mask (op : BitVec 5) (c : BitVec 5) (a : BitVec 5) (fn : BitVec 3) (imm : BitVec 46) : format13 op c a fn imm &&& 0xF801C00000000000#64 = format13 op 0#5 0#5 fn 0#46 :=
  (and_parts (op ++ c ++ a ++ fn) (BitVec.allOnes 5 ++ 0#5 ++ 0#5 ++ BitVec.allOnes 3) imm (0#46)).trans (congrArg₂ (· ++ ·) ((and_parts (op ++ c ++ a) (BitVec.allOnes 5 ++ 0#5 ++ 0#5) fn (BitVec.allOnes 3)).trans (congrArg₂ (· ++ ·) ((and_parts (op ++ c) (BitVec.allOnes 5 ++ 0#5) a (0#5)).trans (congrArg₂ (· ++ ·) ((and_parts (op) (BitVec.allOnes 5) c (0#5)).trans (congrArg₂ (· ++ ·) (and_ones op) (and_zeros (c : BitVec 5)))) (and_zeros (a : BitVec 5)))) (and_ones fn))) (and_zeros (imm : BitVec 46)))

end Sys2Proof
end

