-- ==== Sys2Proof/Laws/State.lean ====
section
/-! SUPPORT. One lemma for each field of the state after each update, so that no later proof unfolds an update. -/

namespace Sys2Proof.Machine

/-! The pc. -/

@[simp] theorem State.jumpTo_cfg (s : State) (t : Addr) : (s.jumpTo t).cfg = s.cfg := rfl
@[simp] theorem State.jumpTo_regs (s : State) (t : Addr) : (s.jumpTo t).regs = s.regs := rfl
@[simp] theorem State.jumpTo_pc (s : State) (t : Addr) : (s.jumpTo t).pc = t := rfl
@[simp] theorem State.jumpTo_sr (s : State) (t : Addr) : (s.jumpTo t).sr = s.sr := rfl
@[simp] theorem State.jumpTo_mc (s : State) (t : Addr) : (s.jumpTo t).mc = s.mc := rfl
@[simp] theorem State.jumpTo_mem (s : State) (t : Addr) : (s.jumpTo t).mem = s.mem := rfl
@[simp] theorem State.jumpTo_requests (s : State) (t : Addr) : (s.jumpTo t).requests = s.requests := rfl
@[simp] theorem State.jumpTo_presented (s : State) (t : Addr) : (s.jumpTo t).presented = s.presented := rfl
@[simp] theorem State.jumpTo_draws (s : State) (t : Addr) : (s.jumpTo t).draws = s.draws := rfl

@[simp] theorem State.advance_cfg (s : State) (n : Addr) : (s.advance n).cfg = s.cfg := rfl
@[simp] theorem State.advance_regs (s : State) (n : Addr) : (s.advance n).regs = s.regs := rfl
@[simp] theorem State.advance_pc (s : State) (n : Addr) : (s.advance n).pc = s.pc + n := rfl
@[simp] theorem State.advance_sr (s : State) (n : Addr) : (s.advance n).sr = s.sr := rfl
@[simp] theorem State.advance_mc (s : State) (n : Addr) : (s.advance n).mc = s.mc := rfl
@[simp] theorem State.advance_mem (s : State) (n : Addr) : (s.advance n).mem = s.mem := rfl
@[simp] theorem State.advance_requests (s : State) (n : Addr) : (s.advance n).requests = s.requests := rfl
@[simp] theorem State.advance_presented (s : State) (n : Addr) : (s.advance n).presented = s.presented := rfl
@[simp] theorem State.advance_draws (s : State) (n : Addr) : (s.advance n).draws = s.draws := rfl

/-! Transfers. -/

@[simp] theorem State.present_cfg (s : State) (ts : List Transfer) : (s.present ts).cfg = s.cfg := rfl
@[simp] theorem State.present_regs (s : State) (ts : List Transfer) : (s.present ts).regs = s.regs := rfl
@[simp] theorem State.present_pc (s : State) (ts : List Transfer) : (s.present ts).pc = s.pc := rfl
@[simp] theorem State.present_sr (s : State) (ts : List Transfer) : (s.present ts).sr = s.sr := rfl
@[simp] theorem State.present_mc (s : State) (ts : List Transfer) : (s.present ts).mc = s.mc := rfl
@[simp] theorem State.present_mem (s : State) (ts : List Transfer) : (s.present ts).mem = s.mem := rfl
@[simp] theorem State.present_requests (s : State) (ts : List Transfer) : (s.present ts).requests = s.requests := rfl
@[simp] theorem State.present_presented (s : State) (ts : List Transfer) : (s.present ts).presented = s.presented ++ ts.filter (reachesPlatform s.cfg) := rfl
@[simp] theorem State.present_draws (s : State) (ts : List Transfer) : (s.present ts).draws = s.draws := rfl

@[simp] theorem State.storeBytes_cfg (s : State) (a : Addr) (n : Size) (bs : List Byte) :
    (s.storeBytes a n bs).cfg = s.cfg := rfl
@[simp] theorem State.storeBytes_regs (s : State) (a : Addr) (n : Size) (bs : List Byte) :
    (s.storeBytes a n bs).regs = s.regs := rfl
@[simp] theorem State.storeBytes_pc (s : State) (a : Addr) (n : Size) (bs : List Byte) :
    (s.storeBytes a n bs).pc = s.pc := rfl
@[simp] theorem State.storeBytes_sr (s : State) (a : Addr) (n : Size) (bs : List Byte) :
    (s.storeBytes a n bs).sr = s.sr := rfl
@[simp] theorem State.storeBytes_mc (s : State) (a : Addr) (n : Size) (bs : List Byte) :
    (s.storeBytes a n bs).mc = s.mc := rfl
@[simp] theorem State.storeBytes_mem (s : State) (a : Addr) (n : Size) (bs : List Byte) :
    (s.storeBytes a n bs).mem = s.mem.writeBytes (isPlain s.cfg) a bs := rfl
@[simp] theorem State.storeBytes_requests (s : State) (a : Addr) (n : Size) (bs : List Byte) :
    (s.storeBytes a n bs).requests = s.requests := rfl
@[simp] theorem State.storeBytes_presented (s : State) (a : Addr) (n : Size) (bs : List Byte) :
    (s.storeBytes a n bs).presented = s.presented ++ (writeTransfers a n bs).filter (reachesPlatform s.cfg) := rfl
@[simp] theorem State.storeBytes_draws (s : State) (a : Addr) (n : Size) (bs : List Byte) :
    (s.storeBytes a n bs).draws = s.draws := rfl

@[simp] theorem State.fetched_cfg (s : State) (i : Instr) : (s.fetched i).cfg = s.cfg := rfl
@[simp] theorem State.fetched_regs (s : State) (i : Instr) : (s.fetched i).regs = s.regs := rfl
@[simp] theorem State.fetched_pc (s : State) (i : Instr) : (s.fetched i).pc = s.pc := rfl
@[simp] theorem State.fetched_sr (s : State) (i : Instr) : (s.fetched i).sr = s.sr := rfl
@[simp] theorem State.fetched_mc (s : State) (i : Instr) : (s.fetched i).mc = s.mc := rfl
@[simp] theorem State.fetched_mem (s : State) (i : Instr) : (s.fetched i).mem = s.mem := rfl
@[simp] theorem State.fetched_requests (s : State) (i : Instr) : (s.fetched i).requests = s.requests := rfl
@[simp] theorem State.fetched_presented (s : State) (i : Instr) : (s.fetched i).presented = s.presented ++ (fetchTransfers s.pc i).filter (reachesPlatform s.cfg) := rfl
@[simp] theorem State.fetched_draws (s : State) (i : Instr) : (s.fetched i).draws = s.draws := rfl

/-! Flags and free values. -/

@[simp] theorem State.writeFlags_cfg (s : State) (z c n v : Bool) : (s.writeFlags z c n v).cfg = s.cfg := rfl
@[simp] theorem State.writeFlags_regs (s : State) (z c n v : Bool) : (s.writeFlags z c n v).regs = s.regs := rfl
@[simp] theorem State.writeFlags_pc (s : State) (z c n v : Bool) : (s.writeFlags z c n v).pc = s.pc := rfl
@[simp] theorem State.writeFlags_sr (s : State) (z c n v : Bool) : (s.writeFlags z c n v).sr = { s.sr with z := z, c := c, s := n, v := v } := rfl
@[simp] theorem State.writeFlags_mc (s : State) (z c n v : Bool) : (s.writeFlags z c n v).mc = s.mc := rfl
@[simp] theorem State.writeFlags_mem (s : State) (z c n v : Bool) : (s.writeFlags z c n v).mem = s.mem := rfl
@[simp] theorem State.writeFlags_requests (s : State) (z c n v : Bool) : (s.writeFlags z c n v).requests = s.requests := rfl
@[simp] theorem State.writeFlags_presented (s : State) (z c n v : Bool) : (s.writeFlags z c n v).presented = s.presented := rfl
@[simp] theorem State.writeFlags_draws (s : State) (z c n v : Bool) : (s.writeFlags z c n v).draws = s.draws := rfl

@[simp] theorem State.draw_cfg (s : State) : (s.draw).cfg = s.cfg := rfl
@[simp] theorem State.draw_regs (s : State) : (s.draw).regs = s.regs := rfl
@[simp] theorem State.draw_pc (s : State) : (s.draw).pc = s.pc := rfl
@[simp] theorem State.draw_sr (s : State) : (s.draw).sr = s.sr := rfl
@[simp] theorem State.draw_mc (s : State) : (s.draw).mc = s.mc := rfl
@[simp] theorem State.draw_mem (s : State) : (s.draw).mem = s.mem := rfl
@[simp] theorem State.draw_requests (s : State) : (s.draw).requests = s.requests := rfl
@[simp] theorem State.draw_presented (s : State) : (s.draw).presented = s.presented := rfl
@[simp] theorem State.draw_draws (s : State) : (s.draw).draws = s.draws + 1 := rfl

/-! Registers: a write changes at most the bank. -/

@[simp] theorem State.writeReg_cfg (s : State) (i : RegNum) (v : QWord) : (s.writeReg i v).cfg = s.cfg := by
  unfold State.writeReg; split <;> rfl
@[simp] theorem State.writeReg_pc (s : State) (i : RegNum) (v : QWord) : (s.writeReg i v).pc = s.pc := by
  unfold State.writeReg; split <;> rfl
@[simp] theorem State.writeReg_sr (s : State) (i : RegNum) (v : QWord) : (s.writeReg i v).sr = s.sr := by
  unfold State.writeReg; split <;> rfl
@[simp] theorem State.writeReg_mc (s : State) (i : RegNum) (v : QWord) : (s.writeReg i v).mc = s.mc := by
  unfold State.writeReg; split <;> rfl
@[simp] theorem State.writeReg_mem (s : State) (i : RegNum) (v : QWord) : (s.writeReg i v).mem = s.mem := by
  unfold State.writeReg; split <;> rfl
@[simp] theorem State.writeReg_requests (s : State) (i : RegNum) (v : QWord) : (s.writeReg i v).requests = s.requests := by
  unfold State.writeReg; split <;> rfl
@[simp] theorem State.writeReg_presented (s : State) (i : RegNum) (v : QWord) : (s.writeReg i v).presented = s.presented := by
  unfold State.writeReg; split <;> rfl
@[simp] theorem State.writeReg_draws (s : State) (i : RegNum) (v : QWord) : (s.writeReg i v).draws = s.draws := by
  unfold State.writeReg; split <;> rfl

/-! ALU write-backs: the bank and the flags. -/

@[simp] theorem State.writeAlu_cfg (s : State) {w : Nat} (i : RegNum) (out : AluOut w) : (s.writeAlu i out).cfg = s.cfg := by
  simp [State.writeAlu]
@[simp] theorem State.writeAlu_regs (s : State) {w : Nat} (i : RegNum) (out : AluOut w) : (s.writeAlu i out).regs = (s.writeReg i (out.r.setWidth 64)).regs := by
  simp [State.writeAlu]
@[simp] theorem State.writeAlu_pc (s : State) {w : Nat} (i : RegNum) (out : AluOut w) : (s.writeAlu i out).pc = s.pc := by
  simp [State.writeAlu]
@[simp] theorem State.writeAlu_sr (s : State) {w : Nat} (i : RegNum) (out : AluOut w) : (s.writeAlu i out).sr = { s.sr with z := out.r == 0#w, c := out.c, s := out.r.msb, v := out.v } := by
  simp [State.writeAlu]
@[simp] theorem State.writeAlu_mc (s : State) {w : Nat} (i : RegNum) (out : AluOut w) : (s.writeAlu i out).mc = s.mc := by
  simp [State.writeAlu]
@[simp] theorem State.writeAlu_mem (s : State) {w : Nat} (i : RegNum) (out : AluOut w) : (s.writeAlu i out).mem = s.mem := by
  simp [State.writeAlu]
@[simp] theorem State.writeAlu_requests (s : State) {w : Nat} (i : RegNum) (out : AluOut w) : (s.writeAlu i out).requests = s.requests := by
  simp [State.writeAlu]
@[simp] theorem State.writeAlu_presented (s : State) {w : Nat} (i : RegNum) (out : AluOut w) : (s.writeAlu i out).presented = s.presented := by
  simp [State.writeAlu]
@[simp] theorem State.writeAlu_draws (s : State) {w : Nat} (i : RegNum) (out : AluOut w) : (s.writeAlu i out).draws = s.draws := by
  simp [State.writeAlu]

@[simp] theorem State.writeFloat_cfg (s : State) {w : Nat} (i : RegNum) (out : FpOut w) : (s.writeFloat i out).cfg = s.cfg := by
  simp [State.writeFloat]
@[simp] theorem State.writeFloat_regs (s : State) {w : Nat} (i : RegNum) (out : FpOut w) : (s.writeFloat i out).regs = (s.writeReg i (out.r.setWidth 64)).regs := by
  simp [State.writeFloat]
@[simp] theorem State.writeFloat_pc (s : State) {w : Nat} (i : RegNum) (out : FpOut w) : (s.writeFloat i out).pc = s.pc := by
  simp [State.writeFloat]
@[simp] theorem State.writeFloat_sr (s : State) {w : Nat} (i : RegNum) (out : FpOut w) : (s.writeFloat i out).sr = { s.sr with z := out.z, c := out.c, s := out.s, v := out.v } := by
  simp [State.writeFloat]
@[simp] theorem State.writeFloat_mc (s : State) {w : Nat} (i : RegNum) (out : FpOut w) : (s.writeFloat i out).mc = s.mc := by
  simp [State.writeFloat]
@[simp] theorem State.writeFloat_mem (s : State) {w : Nat} (i : RegNum) (out : FpOut w) : (s.writeFloat i out).mem = s.mem := by
  simp [State.writeFloat]
@[simp] theorem State.writeFloat_requests (s : State) {w : Nat} (i : RegNum) (out : FpOut w) : (s.writeFloat i out).requests = s.requests := by
  simp [State.writeFloat]
@[simp] theorem State.writeFloat_presented (s : State) {w : Nat} (i : RegNum) (out : FpOut w) : (s.writeFloat i out).presented = s.presented := by
  simp [State.writeFloat]
@[simp] theorem State.writeFloat_draws (s : State) {w : Nat} (i : RegNum) (out : FpOut w) : (s.writeFloat i out).draws = s.draws := by
  simp [State.writeFloat]

@[simp] theorem State.writeMulDiv_cfg (s : State) {w : Nat} (i : RegNum) (r : BitVec w) : (s.writeMulDiv i r).cfg = s.cfg := by
  simp [State.writeMulDiv]
@[simp] theorem State.writeMulDiv_regs (s : State) {w : Nat} (i : RegNum) (r : BitVec w) : (s.writeMulDiv i r).regs = (s.writeReg i (r.setWidth 64)).regs := by
  simp [State.writeMulDiv]
@[simp] theorem State.writeMulDiv_pc (s : State) {w : Nat} (i : RegNum) (r : BitVec w) : (s.writeMulDiv i r).pc = s.pc := by
  simp [State.writeMulDiv]
@[simp] theorem State.writeMulDiv_sr (s : State) {w : Nat} (i : RegNum) (r : BitVec w) : (s.writeMulDiv i r).sr = { s.sr with z := r == 0#w, c := Config.anyCarry s.draws, s := r.msb, v := Config.anyOverflow s.draws } := by
  simp [State.writeMulDiv]
@[simp] theorem State.writeMulDiv_mc (s : State) {w : Nat} (i : RegNum) (r : BitVec w) : (s.writeMulDiv i r).mc = s.mc := by
  simp [State.writeMulDiv]
@[simp] theorem State.writeMulDiv_mem (s : State) {w : Nat} (i : RegNum) (r : BitVec w) : (s.writeMulDiv i r).mem = s.mem := by
  simp [State.writeMulDiv]
@[simp] theorem State.writeMulDiv_requests (s : State) {w : Nat} (i : RegNum) (r : BitVec w) : (s.writeMulDiv i r).requests = s.requests := by
  simp [State.writeMulDiv]
@[simp] theorem State.writeMulDiv_presented (s : State) {w : Nat} (i : RegNum) (r : BitVec w) : (s.writeMulDiv i r).presented = s.presented := by
  simp [State.writeMulDiv]
@[simp] theorem State.writeMulDiv_draws (s : State) {w : Nat} (i : RegNum) (r : BitVec w) : (s.writeMulDiv i r).draws = s.draws + 1 := by
  simp [State.writeMulDiv]

/-! Status bits and interrupts. -/

@[simp] theorem State.putStatus_cfg (s : State) (b : StatusBit) (value : Bool) : (s.putStatus b value).cfg = s.cfg := by
  unfold State.putStatus; split <;> rfl
@[simp] theorem State.putStatus_regs (s : State) (b : StatusBit) (value : Bool) : (s.putStatus b value).regs = s.regs := by
  unfold State.putStatus; split <;> rfl
@[simp] theorem State.putStatus_pc (s : State) (b : StatusBit) (value : Bool) : (s.putStatus b value).pc = s.pc := by
  unfold State.putStatus; split <;> rfl
@[simp] theorem State.putStatus_sr (s : State) (b : StatusBit) (value : Bool) : (s.putStatus b value).sr = if s.writable b then s.sr.put b value else s.sr := by
  unfold State.putStatus; split <;> rfl
@[simp] theorem State.putStatus_mc (s : State) (b : StatusBit) (value : Bool) : (s.putStatus b value).mc = s.mc := by
  unfold State.putStatus; split <;> rfl
@[simp] theorem State.putStatus_mem (s : State) (b : StatusBit) (value : Bool) : (s.putStatus b value).mem = s.mem := by
  unfold State.putStatus; split <;> rfl
@[simp] theorem State.putStatus_requests (s : State) (b : StatusBit) (value : Bool) : (s.putStatus b value).requests = s.requests := by
  unfold State.putStatus; split <;> rfl
@[simp] theorem State.putStatus_presented (s : State) (b : StatusBit) (value : Bool) : (s.putStatus b value).presented = s.presented := by
  unfold State.putStatus; split <;> rfl
@[simp] theorem State.putStatus_draws (s : State) (b : StatusBit) (value : Bool) : (s.putStatus b value).draws = s.draws := by
  unfold State.putStatus; split <;> rfl

@[simp] theorem State.enter_cfg (s : State) (ra target : Addr) : (s.enter ra target).cfg = s.cfg := by
  simp [State.enter]
@[simp] theorem State.enter_regs (s : State) (ra target : Addr) : (s.enter ra target).regs = (s.writeReg ert (ra.setWidth 64)).regs := by
  simp [State.enter]
@[simp] theorem State.enter_pc (s : State) (ra target : Addr) : (s.enter ra target).pc = target := by
  simp [State.enter]
@[simp] theorem State.enter_sr (s : State) (ra target : Addr) : (s.enter ra target).sr = { s.sr with km := true } := by
  simp [State.enter]
@[simp] theorem State.enter_mc (s : State) (ra target : Addr) : (s.enter ra target).mc = s.mc := by
  simp [State.enter]
@[simp] theorem State.enter_mem (s : State) (ra target : Addr) : (s.enter ra target).mem = s.mem := by
  simp [State.enter]
@[simp] theorem State.enter_requests (s : State) (ra target : Addr) : (s.enter ra target).requests = s.requests := by
  simp [State.enter]
@[simp] theorem State.enter_presented (s : State) (ra target : Addr) : (s.enter ra target).presented = s.presented := by
  simp [State.enter]
@[simp] theorem State.enter_draws (s : State) (ra target : Addr) : (s.enter ra target).draws = s.draws := by
  simp [State.enter]

@[simp] theorem State.returnToUser_cfg (s : State) : (s.returnToUser).cfg = s.cfg := rfl
@[simp] theorem State.returnToUser_regs (s : State) : (s.returnToUser).regs = s.regs := rfl
@[simp] theorem State.returnToUser_pc (s : State) : (s.returnToUser).pc = (s.readReg ert).setWidth 32 := rfl
@[simp] theorem State.returnToUser_sr (s : State) : (s.returnToUser).sr = { s.sr with km := false } := rfl
@[simp] theorem State.returnToUser_mc (s : State) : (s.returnToUser).mc = s.mc := rfl
@[simp] theorem State.returnToUser_mem (s : State) : (s.returnToUser).mem = s.mem := rfl
@[simp] theorem State.returnToUser_requests (s : State) : (s.returnToUser).requests = s.requests := rfl
@[simp] theorem State.returnToUser_presented (s : State) : (s.returnToUser).presented = s.presented := rfl
@[simp] theorem State.returnToUser_draws (s : State) : (s.returnToUser).draws = s.draws := rfl

@[simp] theorem State.afterReset_cfg (s : State) (start : Addr) : (s.afterReset start).cfg = s.cfg := by simp only [State.afterReset]
@[simp] theorem State.afterReset_pc (s : State) (start : Addr) : (s.afterReset start).pc = start := by simp only [State.afterReset]
@[simp] theorem State.afterReset_mem (s : State) (start : Addr) : (s.afterReset start).mem = s.mem := by simp only [State.afterReset]
@[simp] theorem State.afterReset_requests (s : State) (start : Addr) : (s.afterReset start).requests = s.requests := by simp only [State.afterReset]
@[simp] theorem State.afterReset_presented (s : State) (start : Addr) : (s.afterReset start).presented = s.presented := by simp only [State.afterReset]
@[simp] theorem State.afterReset_draws (s : State) (start : Addr) : (s.afterReset start).draws = s.draws + 1 := by simp only [State.afterReset]
@[simp] theorem State.afterReset_ie (s : State) (start : Addr) : (s.afterReset start).sr.ie = false := by simp only [State.afterReset]
@[simp] theorem State.afterReset_vm (s : State) (start : Addr) : (s.afterReset start).sr.vm = false := by simp only [State.afterReset]
@[simp] theorem State.afterReset_qwm (s : State) (start : Addr) : (s.afterReset start).sr.qwm = false := by simp only [State.afterReset]
@[simp] theorem State.afterReset_km (s : State) (start : Addr) : (s.afterReset start).sr.km = true := by simp only [State.afterReset]
@[simp] theorem State.afterReset_fpm (s : State) (start : Addr) : (s.afterReset start).sr.fpm = false := by simp only [State.afterReset]

/-! The accessors that look at one field. -/

theorem State.xlen_congr {s t : State} (h : t.cfg = s.cfg) : t.xlen = s.xlen := by simp [State.xlen, h]

theorem State.clip_congr {s t : State} (h : t.cfg = s.cfg) (v : QWord) : t.clip v = s.clip v := by
  simp [State.clip, h]

theorem State.qwm_congr {s t : State} (hc : t.cfg = s.cfg) (h : t.sr.qwm = s.sr.qwm) : t.qwm = s.qwm := by
  simp [State.qwm, hc, h]

theorem State.fpm_congr {s t : State} (hc : t.cfg = s.cfg) (h : t.sr.fpm = s.sr.fpm) : t.fpm = s.fpm := by
  simp [State.fpm, hc, h]

theorem State.opWidth_congr {s t : State} (hc : t.cfg = s.cfg) (h : t.sr.qwm = s.sr.qwm) : t.opWidth = s.opWidth := by
  simp [State.opWidth, State.qwm_congr hc h]

theorem State.opWidth_cases (s : State) : s.opWidth = 32 ∨ s.opWidth = 64 := by
  unfold State.opWidth; split <;> simp

theorem State.opWidth_le_xlen (s : State) : s.opWidth ≤ s.xlen := by
  unfold State.opWidth State.xlen State.qwm
  cases s.cfg.ext.q <;> cases s.sr.qwm <;> simp

theorem State.clip_eq (s : State) (v : QWord) : s.clip v = (v.setWidth s.xlen).setWidth 64 := by
  unfold State.clip State.xlen
  cases s.cfg.ext.q <;> simp

theorem State.xlen_le (s : State) : s.xlen ≤ 64 := by
  unfold State.xlen; split <;> simp

end Sys2Proof.Machine
end

