-- ==== Sys2Proof/Laws/Memory.lean ====
section
/-! SUPPORT. Memory: what a byte reads as after a write, and that every operation keeps the canonical form (20_memory.md). -/

namespace Sys2Proof.Machine

/-! One byte. -/

theorem Memory.read_filter_ne (m : Memory) {a b : Nat} (h : b ≠ a) :
    Memory.read (m.filter (fun cell => cell.1 != a)) b = m.read b := by
  induction m with
  | nil => rfl
  | cons cell rest ih =>
    by_cases hc : cell.1 = a
    · have : cell.1 ≠ b := fun e => h (e.symm.trans hc)
      have keep : List.filter (fun cell => cell.1 != a) (cell :: rest) = List.filter (fun cell => cell.1 != a) rest := by
        simp [hc]
      rw [keep, ih, Memory.read, if_neg this]
    · simp only [List.filter_cons, bne_iff_ne, ne_eq, hc, not_false_eq_true, if_true, Memory.read, ih]

theorem Memory.read_filter_same (m : Memory) (a : Nat) :
    Memory.read (m.filter (fun cell => cell.1 != a)) a = Memory.unlisted := by
  induction m with
  | nil => rfl
  | cons cell rest ih =>
    by_cases hc : cell.1 = a
    · simpa [List.filter_cons, hc] using ih
    · simpa [List.filter_cons, hc, Memory.read] using ih

theorem Memory.read_insert (m : Memory) (a : Nat) (v : Byte) (b : Nat) (h : ∀ cell ∈ m, cell.1 ≠ a) :
    (Memory.insert m a v).read b = if b = a then v else m.read b := by
  induction m with
  | nil =>
    by_cases e : b = a
    · simp [Memory.insert, Memory.read, e]
    · have : a ≠ b := fun h => e h.symm
      simp [Memory.insert, Memory.read, e, this]
  | cons cell rest ih =>
    have hc : cell.1 ≠ a := h cell (by simp)
    have ih := ih fun c hc => h c (by simp [hc])
    unfold Memory.insert
    split
    · by_cases e : b = a
      · simp [Memory.read, e]
      · have : a ≠ b := fun h => e h.symm
        simp [Memory.read, e, this]
    · simp only [Memory.read, ih]
      by_cases e : b = a
      · subst e; simp [hc]
      · simp [e]

/-- The byte written is read; every other byte is as before. -/
theorem Memory.read_write (m : Memory) (a : Nat) (v : Byte) (b : Nat) :
    (m.write a v).read b = if b = a then v else m.read b := by
  unfold Memory.write
  simp only
  split
  · rename_i hv
    by_cases e : b = a
    · subst e; simp [Memory.read_filter_same, hv]
    · simp [e, Memory.read_filter_ne m e]
  · rw [Memory.read_insert]
    · by_cases e : b = a
      · simp [e]
      · simp [e, Memory.read_filter_ne m e]
    · intro cell hc
      simpa using (List.mem_filter.mp hc).2

@[simp] theorem Memory.read_write_same (m : Memory) (a : Nat) (v : Byte) : (m.write a v).read a = v := by
  simp [Memory.read_write]

theorem Memory.read_write_other (m : Memory) {a b : Nat} (v : Byte) (h : b ≠ a) : (m.write a v).read b = m.read b := by
  simp [Memory.read_write, h]

/-! The canonical form. -/

theorem Memory.wf_nil : Memory.wf [] := by simp [Memory.wf]

theorem Memory.mem_insert {m : Memory} {a : Nat} {v : Byte} {c : Host.Cell} (h : c ∈ Memory.insert m a v) :
    c = (a, v) ∨ c ∈ m := by
  induction m with
  | nil => simpa [Memory.insert] using h
  | cons cell rest ih =>
    unfold Memory.insert at h
    split at h
    · simpa using h
    · rcases List.mem_cons.mp h with h | h
      · exact .inr (by simp [h])
      · exact (ih h).imp id (by intro h; simp [h])

theorem Memory.insert_wf {m : Memory} {a : Nat} {v : Byte} (hm : m.wf) (ha : a < 2 ^ 32) (hv : v ≠ Memory.unlisted)
    (hn : ∀ cell ∈ m, cell.1 ≠ a) : (Memory.insert m a v).wf := by
  induction m with
  | nil => exact ⟨by simp [Memory.insert], by simpa [Memory.insert] using ⟨ha, hv⟩⟩
  | cons cell rest ih =>
    obtain ⟨hp, hb⟩ := hm
    rw [List.pairwise_cons] at hp
    unfold Memory.insert
    split
    · rename_i hlt
      refine ⟨?_, ?_⟩
      · rw [List.pairwise_cons, List.pairwise_cons]
        refine ⟨?_, hp⟩
        intro d hd
        rcases List.mem_cons.mp hd with rfl | hd
        · exact hlt
        · exact Nat.lt_trans hlt (hp.1 d hd)
      · intro d hd
        rcases List.mem_cons.mp hd with rfl | hd
        · exact ⟨ha, hv⟩
        · exact hb d hd
    · rename_i hge
      have hne : cell.1 ≠ a := hn cell (by simp)
      have ih := ih ⟨hp.2, fun d hd => hb d (by simp [hd])⟩ fun d hd => hn d (by simp [hd])
      refine ⟨?_, ?_⟩
      · rw [List.pairwise_cons]
        refine ⟨?_, ih.1⟩
        intro d hd
        rcases Memory.mem_insert hd with rfl | hd
        · simp only; omega
        · exact hp.1 d hd
      · intro d hd
        rcases List.mem_cons.mp hd with rfl | hd
        · exact hb d (by simp)
        · exact ih.2 d hd

/-- A write keeps the canonical form. -/
theorem Memory.write_wf {m : Memory} {a : Nat} (v : Byte) (hm : m.wf) (ha : a < 2 ^ 32) : (m.write a v).wf := by
  have hf : Memory.wf (m.filter (fun cell => cell.1 != a)) :=
    ⟨hm.1.filter _, fun c hc => hm.2 c (List.mem_of_mem_filter hc)⟩
  unfold Memory.write
  simp only
  split
  · exact hf
  · rename_i hv
    exact Memory.insert_wf hf ha hv fun c hc => by simpa using (List.mem_filter.mp hc).2

/-- Writing bytes at rising addresses keeps the canonical form. -/
theorem Memory.writeBytes_wf {m : Memory} (hm : m.wf) (plain : Addr → Bool) (a : Addr) (bs : List Byte) :
    (m.writeBytes plain a bs).wf := by
  induction bs generalizing m a with
  | nil => exact hm
  | cons b bs ih =>
    rw [Memory.writeBytes]
    split
    · exact ih (Memory.write_wf b hm (by simpa using a.isLt)) _
    · exact ih hm _

/-! Bytes at rising addresses. -/

/-- The first of several bytes written, where it lies in memory. -/
theorem Memory.read_write_if (m : Memory) (plain : Addr → Bool) (a b : Addr) (v : Byte) (h : b ≠ a ∨ plain b = false) :
    (if plain a then m.write a.toNat v else m).read b.toNat = m.read b.toNat := by
  by_cases hp : plain a = true
  · rw [if_pos hp]
    refine Memory.read_write_other m v fun e => ?_
    have e := BitVec.eq_of_toNat_eq e
    rcases h with h | h
    · exact h e
    · rw [e, hp] at h
      cases h
  · rw [if_neg hp]

/-- A byte outside the written ones is as before: `b` is no address `a + k` with k below the number of bytes written. -/
theorem Memory.read_writeBytes_other (m : Memory) (plain : Addr → Bool) (a b : Addr) (bs : List Byte)
    (h : bs.length ≤ (b - a).toNat) : (m.writeBytes plain a bs).read b.toNat = m.read b.toNat := by
  induction bs generalizing m a with
  | nil => rfl
  | cons v bs ih =>
    simp only [List.length_cons] at h
    have hne : b ≠ a := by
      rintro rfl
      simp at h
    have hsub : bs.length ≤ (b - (a + 1#32)).toNat := by
      have : (b - (a + 1#32)).toNat = (b - a).toNat - 1 := by
        have e : b - (a + 1#32) = (b - a) - 1#32 := by bv_omega
        rw [e]
        have : 1 ≤ (b - a).toNat := by omega
        bv_omega
      omega
    rw [Memory.writeBytes, ih _ _ hsub, Memory.read_write_if m plain a b v (.inl hne)]

/-- A byte that is no plain memory is as before. -/
theorem Memory.read_writeBytes_notPlain (m : Memory) (plain : Addr → Bool) (a b : Addr) (bs : List Byte)
    (h : plain b = false) : (m.writeBytes plain a bs).read b.toNat = m.read b.toNat := by
  induction bs generalizing m a with
  | nil => rfl
  | cons v bs ih => rw [Memory.writeBytes, ih, Memory.read_write_if m plain a b v (.inr h)]

/-- Byte k of those written is read where it was written, if memory lies there. -/
theorem Memory.read_writeBytes_at (m : Memory) (plain : Addr → Bool) (a : Addr) (bs : List Byte) (hl : bs.length ≤ 2 ^ 32)
    (k : Nat) (hk : k < bs.length) (hp : plain (a + BitVec.ofNat 32 k) = true) :
    (m.writeBytes plain a bs).read (a + BitVec.ofNat 32 k).toNat = bs.getD k 0 := by
  induction bs generalizing m a k with
  | nil => simp at hk
  | cons v bs ih =>
    simp only [List.length_cons] at hl hk
    cases k with
    | zero =>
      have e0 : a + BitVec.ofNat 32 0 = a := by simp
      rw [e0] at hp ⊢
      rw [Memory.writeBytes, Memory.read_writeBytes_other, if_pos hp, Memory.read_write_same, List.getD_cons_zero]
      have e : a - (a + 1#32) = 0xFFFFFFFF#32 := by bv_omega
      rw [e]
      simp
      omega
    | succ k =>
      have e : a + BitVec.ofNat 32 (k + 1) = (a + 1#32) + BitVec.ofNat 32 k := by
        rw [BitVec.add_assoc]
        congr 1
        apply BitVec.eq_of_toNat_eq
        simp [Nat.add_comm]
      rw [e] at hp ⊢
      rw [Memory.writeBytes, ih _ _ (by omega) k (by omega) hp, List.getD_cons_succ]

theorem splitLittle_length (n : Nat) (v : QWord) : (splitLittle n v).length = n := by
  induction n generalizing v with
  | zero => rfl
  | succ n ih => simp [splitLittle, ih]

@[simp] theorem splitBytes_length (e : Endian) (n : Nat) (v : QWord) : (splitBytes e n v).length = n := by
  cases e <;> simp [splitBytes, splitLittle_length]

/-- Joining the low bytes of a value gives its low bits. -/
theorem joinLittle_splitLittle (n : Nat) (v : QWord) (i : Nat) :
    (joinLittle (splitLittle n v)).getLsbD i = (decide (i < 8 * n) && v.getLsbD i) := by
  induction n generalizing v i with
  | zero => simp [splitLittle, joinLittle]
  | succ n ih =>
    simp only [splitLittle, joinLittle, BitVec.getLsbD_or, BitVec.getLsbD_setWidth, BitVec.getLsbD_shiftLeft, ih,
      BitVec.getLsbD_ushiftRight]
    rcases Nat.lt_or_ge i 64 with h64 | h64
    · rcases Nat.lt_or_ge i 8 with h | h
      · have : i < 8 * (n + 1) := by omega
        simp [h, h64, this]
      · have e : 8 + (i - 8) = i := by omega
        have h1 : ¬ i < 8 := by omega
        by_cases h2 : i < 8 * (n + 1)
        · have : i - 8 < 8 * n := by omega
          simp [h1, h2, h64, this, e]
        · have : ¬ i - 8 < 8 * n := by omega
          simp [h1, h2, this]
    · simp [BitVec.getLsbD_of_ge v i h64, Nat.not_lt.mpr h64]

/-- Splitting and joining in one byte order gives the low bits back. -/
theorem joinBytes_splitBytes (e : Endian) (n : Nat) (v : QWord) :
    joinBytes e (splitBytes e n v) = (v.setWidth (8 * n)).setWidth 64 := by
  have h : joinLittle (splitLittle n v) = (v.setWidth (8 * n)).setWidth 64 := by
    apply BitVec.eq_of_getLsbD_eq
    intro i hi
    rw [joinLittle_splitLittle]
    simp only [BitVec.getLsbD_setWidth]
    simp [hi]
  cases e <;> simp [joinBytes, splitBytes, h]

end Sys2Proof.Machine
end

