-- ==== Sys2Proof/Laws/Registers.lean ====
section
/-! SUPPORT. What a register read gives after each update (10_state.md R23, R24). -/

namespace Sys2Proof.Machine

/-- Clipping twice is clipping once. -/
@[simp] theorem State.clip_clip (s : State) (v : QWord) : s.clip (s.clip v) = s.clip v := by
  unfold State.clip
  split
  · rfl
  · ext i hi
    simp only [BitVec.getElem_setWidth, BitVec.getLsbD_setWidth]
    rcases Nat.lt_or_ge i 32 with h | h
    · simp [h, hi]
    · simp [Nat.not_lt.mpr h]

/-- A value of at most 32 bits fits a register. -/
theorem State.clip_setWidth_of_le {n : Nat} (h : n ≤ 32) (s : State) (r : BitVec n) : s.clip (r.setWidth 64) = r.setWidth 64 := by
  unfold State.clip
  split
  · rfl
  · ext i hi
    simp only [BitVec.getElem_setWidth, BitVec.getLsbD_setWidth]
    rcases Nat.lt_or_ge i 32 with h' | h'
    · simp [h', hi]
    · have : n ≤ i := by omega
      simp [BitVec.getLsbD_of_ge r i this]

/-- With `EXT_Q` every value fits a register. -/
theorem State.clip_of_q {s : State} (h : s.cfg.ext.q = true) (v : QWord) : s.clip v = v := by simp [State.clip, h]

/-- A W-bit result fits a register: W is at most `XLEN`. -/
theorem State.clip_setWidth_opWidth (s : State) (r : BitVec s.opWidth) : s.clip (r.setWidth 64) = r.setWidth 64 := by
  cases hq : s.cfg.ext.q
  · have : s.opWidth = 32 := by simp [State.opWidth, State.qwm, hq]
    exact State.clip_setWidth_of_le (by omega) s r
  · exact State.clip_of_q hq _

/-- Two writable registers share a place only if they are one register. -/
theorem place_injective : ∀ i j : RegNum, isReadOnly i = false → isReadOnly j = false → place i = place j → i = j := by
  decide

theorem isReadOnly_iff (i : RegNum) : isReadOnly i = true ↔ i = 0#5 ∨ i = 25#5 ∨ i = 31#5 := by
  simp [isReadOnly, or_assoc]

/-- A register that is no view of SR or of the pc reads the same in two states with one bank and one configuration. -/
theorem State.readReg_congr {s t : State} (hc : t.cfg = s.cfg) (hr : t.regs = s.regs) {r : RegNum} (h25 : r ≠ 25#5)
    (h31 : r ≠ 31#5) : t.readReg r = s.readReg r := by
  simp [State.readReg, h25, h31, hr, State.clip_congr hc]

/-- Any register reads the same in two states that agree on all a read looks at. -/
theorem State.readReg_congr_all {s t : State} (hc : t.cfg = s.cfg) (hr : t.regs = s.regs) (hs : t.sr = s.sr) (hp : t.pc = s.pc)
    (r : RegNum) : t.readReg r = s.readReg r := by
  simp [State.readReg, hr, State.clip_congr hc, State.srBits, State.fpm, State.qwm, State.epc, hc, hs, hp]

@[simp] theorem State.readReg_zero (s : State) : s.readReg 0#5 = 0#64 := by simp [State.readReg]

/-- What a write does to every register but the two views (R24). -/
theorem State.readReg_writeReg (s : State) (c : RegNum) (v : QWord) {r : RegNum} (h25 : r ≠ 25#5) (h31 : r ≠ 31#5) :
    (s.writeReg c v).readReg r = if r = c ∧ isReadOnly c = false then s.clip v else s.readReg r := by
  by_cases h0 : r = 0#5
  · subst h0
    have : ¬ (0#5 = c ∧ isReadOnly c = false) := by
      rintro ⟨rfl, h⟩
      simp [isReadOnly] at h
    simp [this]
  by_cases hc : isReadOnly c = true
  · simp [State.writeReg, hc]
  · have hc' : isReadOnly c = false := by simpa using hc
    have hr' : isReadOnly r = false := by
      cases h : isReadOnly r
      · rfl
      · rcases (isReadOnly_iff r).mp h with h | h | h <;> contradiction
    have hclip : ∀ x, (State.mk s.cfg (s.regs.set (place c) (s.clip v)) s.pc s.sr s.mc s.mem s.requests s.presented s.draws).clip x
        = s.clip x := fun x => State.clip_congr rfl x
    simp only [State.writeReg, hc', State.readReg, h0, h25, h31, if_false, Bool.false_eq_true, and_true, hclip]
    by_cases e : r = c
    · subst e
      simp
    · have : place c ≠ place r := fun h => e (place_injective r c hr' hc' h.symm)
      have hne : (place c).val ≠ (place r).val := fun h => this (Fin.ext h)
      simp [e, Vector.getElem_set_ne _ _ hne]

/-- A write makes the same bank of the same bank. -/
theorem State.writeReg_regs_congr {s t : State} (hc : t.cfg = s.cfg) (hr : t.regs = s.regs) {c : RegNum} {v : QWord} :
    (t.writeReg c v).regs = (s.writeReg c v).regs := by
  unfold State.writeReg
  split <;> simp [hr, State.clip_congr hc]

/-- A write of a value that fits reads back as that value. -/
theorem State.readReg_writeReg_same (s : State) (c : RegNum) (v : QWord) (hc : isReadOnly c = false) :
    (s.writeReg c v).readReg c = s.clip v := by
  have h25 : c ≠ 25#5 := by rintro rfl; simp [isReadOnly] at hc
  have h31 : c ≠ 31#5 := by rintro rfl; simp [isReadOnly] at hc
  simp [State.readReg_writeReg s c v h25 h31, hc]

end Sys2Proof.Machine
end

