-- ==== Sys2Proof/Laws/Ops.lean ====
section
/-! SUPPORT. What each shared operation can do, said once: the provers cite these and unfold no operation. -/

namespace Sys2Proof.Machine

/-! Outcomes. -/

@[simp] theorem orRefuse_ok {α : Type} (a : α) (k : α → Host.Outcome State Fault Refusal) : orRefuse (.ok a) k = k a := rfl

@[simp] theorem orRefuse_error {α : Type} (r : Refusal) (k : α → Host.Outcome State Fault Refusal) :
    orRefuse (.error r) k = .refused r := rfl

theorem orRefuse_next {α : Type} {x : Except Refusal α} {k : α → Host.Outcome State Fault Refusal} {t : State}
    (h : orRefuse x k = .next t) : ∃ a, x = .ok a ∧ k a = .next t := by
  cases x with
  | ok a => exact ⟨a, rfl, h⟩
  | error r => cases h

theorem next_inj {s t : State} (h : (Host.Outcome.next s : Host.Outcome State Fault Refusal) = .next t) : s = t := by
  injection h

/-! Accesses. -/

/-- An access is checked through exactly where it is allowed (R66, R68, R78). -/
theorem accessCheck_ok_iff (s : State) (a : Addr) (n : Size) : accessCheck s a n = .ok () ↔ accessAllowed s a n := by
  unfold accessCheck accessAllowed
  cases hv : s.sr.vm
  · cases hm : s.cfg.misaligned
    · by_cases ha : a.toNat % alignment s.cfg n = 0 <;> simp [ha]
    · simp
  · simp

/-- With virtual memory every access is refused (R78). -/
theorem accessCheck_vm {s : State} (h : s.sr.vm = true) (a : Addr) (n : Size) :
    accessCheck s a n = .error .virtualMemoryNotSpecified := by simp [accessCheck, h]

/-- A misaligned access is refused under `MISALIGNED` = refuse (R68). -/
theorem accessCheck_misaligned {s : State} (h : s.sr.vm = false) (hm : s.cfg.misaligned = .refuse) {a : Addr} {n : Size}
    (ha : a.toNat % alignment s.cfg n ≠ 0) : accessCheck s a n = .error .misalignedAccess := by simp [accessCheck, h, hm, ha]

/-- What a read answers where it is allowed (R66). -/
theorem memRead_of_allowed {s : State} {a : Addr} {n : Size} (h : accessAllowed s a n) :
    memRead s a n = .ok (joinBytes s.cfg.endian (s.readBytes a n.bytes)) := by
  simp [memRead, (accessCheck_ok_iff s a n).mpr h, Except.map]

/-- What a write answers where it is allowed (R67). -/
theorem memWrite_of_allowed {s : State} {a : Addr} {n : Size} (h : accessAllowed s a n) (v : QWord) :
    memWrite s a n v = .ok (s.storeBytes a n (splitBytes s.cfg.endian n.bytes v)) := by
  simp [memWrite, (accessCheck_ok_iff s a n).mpr h, Except.map]

/-- A read that answers was allowed, and answers the joined bytes. -/
theorem memRead_ok {s : State} {a : Addr} {n : Size} {v : QWord} (h : memRead s a n = .ok v) :
    accessAllowed s a n ∧ v = joinBytes s.cfg.endian (s.readBytes a n.bytes) := by
  unfold memRead at h
  cases hc : accessCheck s a n with
  | error r => simp [hc, Except.map] at h
  | ok u =>
    rw [hc] at h
    exact ⟨(accessCheck_ok_iff s a n).mp hc, by simpa [Except.map] using h.symm⟩

/-- A write that answers was allowed, and changes the bytes of the access. -/
theorem memWrite_ok {s t : State} {a : Addr} {n : Size} {v : QWord} (h : memWrite s a n v = .ok t) :
    accessAllowed s a n ∧ t = s.storeBytes a n (splitBytes s.cfg.endian n.bytes v) := by
  unfold memWrite at h
  cases hc : accessCheck s a n with
  | error r => simp [hc, Except.map] at h
  | ok u =>
    rw [hc] at h
    exact ⟨(accessCheck_ok_iff s a n).mp hc, by simpa [Except.map] using h.symm⟩

/-- The bytes of an access, read one after the other or listed by address. -/
theorem readBytes_eq_bytesAt (s : State) (a : Addr) (n : Nat) : s.readBytes a n = bytesAt s a n := by
  induction n generalizing a with
  | zero => rfl
  | succ n ih =>
    rw [State.readBytes, ih, bytesAt, bytesAt, List.range_succ_eq_map, List.map_cons, List.map_map]
    congr 1
    · simp
    · apply List.map_congr_left
      intro k _
      simp only [Function.comp]
      congr 1
      rw [BitVec.add_assoc]
      congr 1
      apply BitVec.eq_of_toNat_eq
      simp [Nat.add_comm]

/-! Bytes of memory and of the platform (R66, R71). -/

/-- A byte reads the same in two states with one map, one memory and one history of transfers. -/
theorem State.byteAt_congr {s t : State} (hc : t.cfg = s.cfg) (hm : t.mem = s.mem) (hp : t.presented = s.presented) (a : Addr) :
    t.byteAt a = s.byteAt a := by simp [State.byteAt, hc, hm, hp]

/-- So does an access. -/
theorem valueAt_congr {s t : State} (hc : t.cfg = s.cfg) (hm : t.mem = s.mem) (hp : t.presented = s.presented) (a : Addr)
    (n : Nat) : valueAt t a n = valueAt s a n := by
  simp only [valueAt, State.byteAt_congr hc hm hp, hc]

/-- A byte of plain memory is memory's. -/
theorem State.byteAt_plain {s : State} {a : Addr} (h : isPlain s.cfg a = true) : s.byteAt a = s.mem.read a.toNat := by
  simp [State.byteAt, h]

/-- Every address is plain memory under the default `MemMap` (R71). -/
theorem isPlain_default {c : Config} (h : c.memMap = []) (a : Addr) : isPlain c a = true := by simp [isPlain, areaAt, h]

/-- Transfers that reach no platform leave the state as it is. -/
theorem State.present_of_memory {s : State} {ts : List Transfer} (h : ∀ t ∈ ts, reachesPlatform s.cfg t = false) :
    s.present ts = s := by
  have : ts.filter (reachesPlatform s.cfg) = [] := List.filter_eq_nil_iff.mpr fun t ht => by simp [h t ht]
  simp [State.present, this]

/-- Every part of an access lies inside it. -/
theorem transferParts_inside (a : Addr) (n : Size) : ∀ p ∈ transferParts a n, p.1 + p.2 ≤ n.bytes := by
  intro p hp
  unfold transferParts at hp
  split at hp
  · obtain ⟨k, hk, rfl⟩ := List.mem_map.mp hp
    have := List.mem_range.mp hk
    simp only
    omega
  · split at hp
    · rename_i h8
      simp at hp
      rcases hp with rfl | rfl <;> simp [h8]
    · simp at hp
      subst hp
      simp

/-- A read inside plain memory reaches no platform. -/
theorem readTransfers_inMemory {s : State} {a : Addr} {n : Size} (h : inMemory s a n.bytes) :
    ∀ t ∈ readTransfers a n, reachesPlatform s.cfg t = false := by
  intro t ht
  obtain ⟨p, hp, rfl⟩ := List.mem_map.mp ht
  have := transferParts_inside a n p hp
  simp only [reachesPlatform, List.any_eq_false, List.mem_range]
  intro k hk
  rw [BitVec.add_assoc, ← BitVec.ofNat_add]
  simp [h (p.1 + k) (by omega)]

/-- A write inside plain memory reaches no platform. -/
theorem writeTransfers_inMemory {s : State} {a : Addr} {n : Size} {bs : List Byte} (h : inMemory s a n.bytes) :
    ∀ t ∈ writeTransfers a n bs, reachesPlatform s.cfg t = false := by
  intro t ht
  obtain ⟨p, hp, rfl⟩ := List.mem_map.mp ht
  have := transferParts_inside a n p hp
  simp only [reachesPlatform, List.any_eq_false, List.mem_range]
  intro k hk
  have hk : k < p.2 := by
    have := List.length_take_le p.2 (bs.drop p.1)
    omega
  rw [BitVec.add_assoc, ← BitVec.ofNat_add]
  simp [h (p.1 + k) (by omega)]

/-- The fetch of an instruction in plain memory is not presented. -/
theorem State.fetched_inMemory {s : State} {i : Instr} (h : inMemory s s.pc i.length.toNat) : s.fetched i = s := by
  refine State.present_of_memory fun t ht => ?_
  rcases List.mem_append.mp ht with ht | ht
  · refine readTransfers_inMemory (n := .dword) (fun k hk => h k ?_) t ht
    unfold Instr.length
    simp only [Size.bytes] at hk
    split <;> simp <;> omega
  · by_cases hl : i.isLong = true
    · rw [if_pos hl] at ht
      refine readTransfers_inMemory (n := .dword) (fun k hk => ?_) t ht
      rw [show s.pc + 4#32 + BitVec.ofNat 32 k = s.pc + BitVec.ofNat 32 (4 + k) by rw [BitVec.add_assoc, ← BitVec.ofNat_add]]
      refine h _ ?_
      simp only [Size.bytes] at hk
      simp [Instr.length, hl]
      omega
    · simp [hl] at ht

/-- An address outside the stored bytes, by distance. -/
theorem outside_iff (a b : Addr) (n : Nat) : outside a b n ↔ n ≤ (b - a).toNat := by
  constructor
  · intro h
    by_contra hlt
    exact h (b - a).toNat (by omega) (by rw [BitVec.ofNat_toNat, BitVec.setWidth_eq]; bv_omega)
  · rintro h k hk rfl
    rw [BitVec.add_comm, BitVec.add_sub_cancel] at h
    simp only [BitVec.toNat_ofNat] at h
    have : k % 2 ^ 32 ≤ k := Nat.mod_le _ _
    omega

/-- A store leaves every byte outside it, and every byte that is no memory, as before (R67). -/
theorem keepsMemoryOutside_storeBytes (s : State) (a : Addr) (n : Size) (bs : List Byte) :
    keepsMemoryOutside a bs.length s (s.storeBytes a n bs) := by
  rintro b (hb | hb)
  · exact Memory.read_writeBytes_other s.mem _ a b bs ((outside_iff a b bs.length).mp hb)
  · exact Memory.read_writeBytes_notPlain s.mem _ a b bs hb

/-! Interrupts, fetch, reset and the step. -/

/-- An entry that completes read its vector and wrote ERT, KM and the pc (R305). -/
theorem raiseInterrupt_next {n : VectorNum} {ra : Addr} {s t : State} (h : raiseInterrupt n ra s = .next t) :
    ∃ v, memRead s (vectorAddress n) .dword = .ok v ∧ t = (s.present (readTransfers (vectorAddress n) .dword)).enter ra (v.setWidth 32) := by
  obtain ⟨v, hv, ht⟩ := orRefuse_next h
  exact ⟨v, hv, (next_inj ht).symm⟩

/-- A vector's address is a multiple of 4 (R72). -/
theorem vectorAddress_aligned : ∀ n : VectorNum, (vectorAddress n).toNat % 4 = 0 := by decide

/-- An entry completes wherever there is no virtual memory (R305). -/
theorem raiseInterrupt_of_novm (n : VectorNum) (ra : Addr) {s : State} (h : s.sr.vm = false) :
    raiseInterrupt n ra s
      = .next ((s.present (readTransfers (vectorAddress n) .dword)).enter ra
          ((joinBytes s.cfg.endian (s.readBytes (vectorAddress n) 4)).setWidth 32)) := by
  have : accessAllowed s (vectorAddress n) .dword := ⟨h, .inr (vectorAddress_aligned n)⟩
  simp [raiseInterrupt, memRead_of_allowed this, Size.bytes]

/-- The interrupt check takes at most one answer from the platform and changes nothing else (R300, R308). -/
theorem consult_cases (s : State) :
    (s.sr.ie = false ∧ consult s = (none, s)) ∨ (s.sr.ie = true ∧ s.requests = [] ∧ consult s = (none, s)) ∨
    (s.sr.ie = true ∧ ∃ answer later, s.requests = answer :: later ∧ consult s = (answer, { s with requests := later })) := by
  unfold consult
  cases hi : s.sr.ie
  · exact .inl ⟨rfl, by simp⟩
  · cases hr : s.requests with
    | nil => exact .inr (.inl ⟨rfl, rfl, by simp⟩)
    | cons answer later => exact .inr (.inr ⟨rfl, answer, later, rfl, by simp⟩)

/-- The state after the check differs at most in the platform's answers. -/
theorem consult_state (s : State) : ∃ later, (consult s).2 = { s with requests := later } := by
  rcases consult_cases s with ⟨_, h⟩ | ⟨_, _, h⟩ | ⟨_, answer, later, _, h⟩
  · exact ⟨s.requests, by rw [h]⟩
  · exact ⟨s.requests, by rw [h]⟩
  · exact ⟨later, by rw [h]⟩

/-- A fetch answers a decoded instruction. -/
theorem fetch_ok {s : State} {i : Instr} (h : fetch s = .ok i) : ∃ ws, decode s.cfg.ext ws = .ok i := by
  have inner : ∀ ws, decodeOrRefuse s ws = .ok i → decode s.cfg.ext ws = .ok i := by
    intro ws h
    unfold decodeOrRefuse at h
    split at h
    · rename_i j hj
      rw [hj]
      simpa using h
    · cases h
  unfold fetch at h
  split at h
  · cases h
  · split at h
    · split at h
      · cases h
      · exact ⟨_, inner _ h⟩
    · exact ⟨_, inner _ h⟩

/-- A step that completes took an interrupt, or ran the instruction at the pc (R300). -/
theorem step_next {s t : State} (h : step s = .next t) :
    (∃ n, (consult s).1 = some n ∧ raiseInterrupt n (consult s).2.pc (consult s).2 = .next t) ∨
    (∃ i, (consult s).1 = none ∧ fetch (consult s).2 = .ok i ∧ exec i ((consult s).2.fetched i) = .next t) := by
  unfold step at h
  split at h
  · rename_i n u hc
    exact .inl ⟨n, by rw [hc], by rw [hc]; exact h⟩
  · rename_i u hc
    obtain ⟨i, hi, ht⟩ := orRefuse_next h
    exact .inr ⟨i, by rw [hc], by rw [hc]; exact hi, by rw [hc]; exact ht⟩

/-- The reset event completed: it read the reset vector and wrote what R340 says. -/
theorem resetEvent_next {s t : State} (h : resetEvent s = .next t) :
    ∃ v, memRead { s with sr := { s.sr with vm := false } } s.cfg.rstVec .dword = .ok v ∧
      t = (s.present (readTransfers s.cfg.rstVec .dword)).afterReset (v.setWidth 32) := by
  obtain ⟨v, hv, ht⟩ := orRefuse_next h
  exact ⟨v, hv, (next_inj ht).symm⟩

/-- The pc of `State.reset` is the word at `RST_VEC` in its memory (R50, R340). -/
theorem reset_pc_is_the_reset_vector_word :
    memRead State.reset State.reset.cfg.rstVec .dword = .ok (State.reset.pc.setWidth 64) := by decide

end Sys2Proof.Machine
end

