-- ==== Sys2Proof/Laws/Effects.lean ====
section
/-! SUPPORT. What each shared operation does, in the terms of Sys2Proof/Safety.lean: its effect and its frame at once. -/

namespace Sys2Proof.Machine

/-! Operands. -/

theorem operand_eq (s : State) (r : RegNum) : operand s r = s.regOperand r := by
  apply BitVec.eq_of_toNat_eq
  simp [operand, State.regOperand]

theorem immediate_eq (s : State) {n : Nat} (imm : BitVec n) (h : n ≤ 64) : immediate s imm = s.immOperand imm := by
  apply BitVec.eq_of_toNat_eq
  have : imm.toNat < 2 ^ 64 := Nat.lt_of_lt_of_le imm.isLt (Nat.pow_le_pow_right (by omega) h)
  simp only [immediate, State.immOperand, BitVec.toNat_ofNat, BitVec.toNat_setWidth, Nat.mod_eq_of_lt this]

/-- The address of a load or store is the base plus the unsigned immediate, modulo 2^32 (R65). -/
theorem effectiveAddress_eq (s : State) (a : RegNum) {n : Nat} (imm : BitVec n) :
    s.effectiveAddress a imm = BitVec.ofNat 32 ((s.readReg a).toNat + imm.toNat) := by
  apply BitVec.eq_of_toNat_eq
  simp [State.effectiveAddress]

/-- The target of a jump is the base plus the signed immediate, modulo 2^32 (R170). -/
theorem jumpTarget_eq (s : State) (c : RegNum) {n : Nat} (imm : BitVec n) :
    s.jumpTarget c imm = jumpAddress s c imm := by
  apply BitVec.eq_of_toNat_eq
  simp only [State.jumpTarget, jumpAddress, BitVec.signExtend, BitVec.toNat_setWidth, BitVec.toNat_add, BitVec.toNat_ofInt]
  omega

/-! Registers. -/

/-- A register write followed by anything that keeps the bank (R24). -/
theorem writesReg_of_regs {s t : State} {c : RegNum} {v : QWord} (hc : t.cfg = s.cfg) (hr : t.regs = (s.writeReg c v).regs)
    (hv : s.clip v = v) : writesReg c v s t := by
  intro r h25 h31
  have : t.readReg r = (s.writeReg c v).readReg r := State.readReg_congr (by simp [hc]) hr h25 h31
  rw [this, State.readReg_writeReg s c v h25 h31, hv]

theorem keepsRegs_of_regs {s t : State} (hc : t.cfg = s.cfg) (hr : t.regs = s.regs) : keepsRegs s t :=
  fun _ h25 h31 => State.readReg_congr hc hr h25 h31

theorem keepsMemory_of_mem {s t : State} (h : t.mem = s.mem) : keepsMemory s t := fun a => by rw [h]

/-! The ALU. -/

/-- The write-back of an integer result: the effect of an ALU operation (R190). -/
theorem writeAlu_advance_effect (s : State) (c : RegNum) (out : AluOut s.opWidth) (length : Addr) :
    aluEffect c length out.r out.c out.v s ((s.writeAlu c out).advance length) :=
  ⟨writesReg_of_regs (by simp) (by simp) (State.clip_setWidth_opWidth s out.r), by simp [beq_eq_decide], by simp, by simp,
    keepsMemory_of_mem (by simp), by simp [keepsRest, keepsParameters]⟩

/-- The write-back of a floating point answer (R290, R291). -/
theorem writeFloat_advance_effect (s : State) (c : RegNum) (out : FpOut s.opWidth) (length : Addr) :
    floatEffect c length out s ((s.writeFloat c out).advance length) :=
  ⟨writesReg_of_regs (by simp) (by simp) (State.clip_setWidth_opWidth s out.r), by simp, by simp, by simp,
    keepsMemory_of_mem (by simp), by simp [keepsRest, keepsParameters]⟩

/-- An ALU operation while FPM = 0. -/
theorem aluStep_integer (key : AluKey) (length : Addr) (c : RegNum) {s : State} (h : s.fpm = false)
    (a b : BitVec s.opWidth) (out : AluOut s.opWidth) :
    ∃ t, aluStep key length c s a b out = .next t ∧ aluEffect c length out.r out.c out.v s t :=
  ⟨_, by rw [aluStep, h]; rfl, writeAlu_advance_effect s c out length⟩

/-- A floating point operation where FpNumerics is supplied (R290). -/
theorem floatingStep_supplied (length : Addr) (c : RegNum) {s : State} (h : s.cfg.fp = .supplied) (out : FpOut s.opWidth) :
    ∃ t, floatingStep length c s out = .next t ∧ floatEffect c length out s t :=
  ⟨_, by rw [floatingStep, h], writeFloat_advance_effect s c out length⟩

/-- A floating point operation where FpNumerics is none (R290). -/
theorem floatingStep_none (length : Addr) (c : RegNum) {s : State} (h : s.cfg.fp = .none) (out : FpOut s.opWidth) :
    floatingStep length c s out = .refused .floatingPointNotSpecified := by rw [floatingStep, h]

/-- An ALU operation while FPM = 1 (R291). -/
theorem aluStep_floating (key : AluKey) (length : Addr) (c : RegNum) {s : State} (h : s.fpm = true)
    (a b : BitVec s.opWidth) (out : AluOut s.opWidth) :
    aluStep key length c s a b out
      = floatingStep length c s (Config.fpAlu key.opcode key.fn1 s.opWidth a b s.sr.c) := by
  rw [aluStep, if_pos h]

/-- `addc` is the sum modulo 2^w with its carry out and signed overflow (R12). -/
theorem addc_r {w : Nat} (x y : BitVec w) (cin : Bool) : (addc x y cin).r = x + y + BitVec.ofNat w cin.toNat := by
  apply BitVec.eq_of_toNat_eq
  simp [addc]

/-- `subb` is the difference modulo 2^w (R12). -/
theorem subb_r {w : Nat} (x y : BitVec w) (bin : Bool) : (subb x y bin).r = x - y - BitVec.ofNat w bin.toNat := by
  simp only [subb, Int.sub_eq_add_neg, BitVec.ofInt_add, BitVec.ofInt_neg, BitVec.ofInt_natCast, BitVec.ofNat_toNat,
    BitVec.setWidth_eq, BitVec.sub_eq_add_neg]

/-- The overflow of `addc` is signed overflow of the exact sum (R12). -/
theorem addc_v {w : Nat} (hw : w = 32 ∨ w = 64) (x y : BitVec w) (cin : Bool) :
    (addc x y cin).v = signedOverflow w (x.toInt + y.toInt + cin.toNat) := by
  have hc : cin.toNat ≤ 1 := Bool.toNat_le cin
  rcases hw with rfl | rfl <;>
  · have hx := x.isLt
    have hy := y.isLt
    rw [Bool.eq_iff_iff]
    simp only [addc, signedOverflow, BitVec.toInt_eq_toNat_cond, BitVec.msb_eq_decide, BitVec.toNat_ofNat, decide_eq_true_eq,
      Bool.and_eq_true, beq_iff_eq, bne_iff_ne, ne_eq, decide_eq_decide]
    split <;> split <;> omega

/-- The overflow of `subb` is signed overflow of the exact difference (R12). -/
theorem subb_v {w : Nat} (hw : w = 32 ∨ w = 64) (x y : BitVec w) (bin : Bool) :
    (subb x y bin).v = signedOverflow w (x.toInt - y.toInt - bin.toNat) := by
  have hc : bin.toNat ≤ 1 := Bool.toNat_le bin
  rcases hw with rfl | rfl <;>
  · have hx := x.isLt
    have hy := y.isLt
    rw [Bool.eq_iff_iff]
    simp only [subb, signedOverflow, BitVec.toInt_eq_toNat_cond, BitVec.msb_eq_decide, BitVec.toNat_ofInt, decide_eq_true_eq,
      Bool.and_eq_true, bne_iff_ne, ne_eq, decide_eq_decide]
    split <;> split <;> omega

/-- The borrow out is the unsigned comparison (R12, R206). -/
theorem subb_c {w : Nat} (x y : BitVec w) (bin : Bool) : (subb x y bin).c = decide (x.toNat < y.toNat + bin.toNat) := by
  rw [Bool.eq_iff_iff]
  simp only [subb, decide_eq_true_eq]
  omega

/-- An addition while FPM = 0, at either width (R191, R192). -/
theorem addition_of_addc {c : RegNum} {length : Addr} {s t : State} {x y : BitVec s.opWidth} {cin : Bool}
    (h : aluEffect c length (addc x y cin).r (addc x y cin).c (addc x y cin).v s t) :
    additionEffect c length x y cin s t := by
  rw [addc_r, addc_v s.opWidth_cases] at h
  exact h

/-- A subtraction while FPM = 0, at either width (R193, R194). -/
theorem subtraction_of_subb {c : RegNum} {length : Addr} {s t : State} {x y : BitVec s.opWidth} {bin : Bool}
    (h : aluEffect c length (subb x y bin).r (subb x y bin).c (subb x y bin).v s t) :
    subtractionEffect c length x y bin s t := by
  rw [subb_r, subb_c, subb_v s.opWidth_cases] at h
  exact h

/-! Loads, stores, jumps, upper immediates, status bits and interrupt entries. -/

/-- The least significant byte comes first (R66). -/
theorem joinLittle_toNat (b : Byte) (bs : List Byte) (h : bs.length ≤ 7) :
    (joinLittle bs).toNat < 256 ^ bs.length ∧ (joinLittle (b :: bs)).toNat = b.toNat + 256 * (joinLittle bs).toNat := by
  induction bs generalizing b with
  | nil =>
    have := b.isLt
    simp only [joinLittle, List.length_nil, BitVec.toNat_or, BitVec.toNat_setWidth, BitVec.zero_shiftLeft, BitVec.toNat_zero]
    simp
    omega
  | cons c bs ih =>
    simp only [List.length_cons] at h
    obtain ⟨h1, h2⟩ := ih c (by omega)
    have hlt : (joinLittle (c :: bs)).toNat < 256 ^ (bs.length + 1) := by
      rw [h2, Nat.pow_succ]
      have := c.isLt
      omega
    refine ⟨by simpa using hlt, ?_⟩
    have hp : 256 ^ (bs.length + 1) ≤ 256 ^ 7 := Nat.pow_le_pow_right (by omega) h
    rw [joinLittle]
    generalize joinLittle (c :: bs) = x at *
    have hx : x.toNat < 2 ^ 56 := by omega
    have hb := b.isLt
    rw [BitVec.toNat_or, BitVec.toNat_shiftLeft, BitVec.toNat_setWidth, Nat.shiftLeft_eq, Nat.mod_eq_of_lt (by omega),
      Nat.mod_eq_of_lt (by omega), Nat.or_comm, ← Nat.shiftLeft_eq, ← Nat.shiftLeft_add_eq_or_of_lt (by simpa using hb),
      Nat.shiftLeft_eq]
    omega

theorem joinLittle_cons_toNat (b : Byte) (bs : List Byte) (h : bs.length ≤ 7) :
    (joinLittle (b :: bs)).toNat = b.toNat + 256 * (joinLittle bs).toNat := (joinLittle_toNat b bs h).2

theorem Size.bytes_le (n : Size) : n.bytes ≤ 8 := by cases n <;> simp [Size.bytes]

/-- Bytes, least significant first, are the digits of the value to base 256 (R66). -/
theorem joinLittle_map_toNat (n : Nat) (h : n ≤ 8) (f : Nat → Byte) :
    (joinLittle ((List.range n).map f)).toNat = ((List.range n).map fun k => (f k).toNat * 256 ^ k).sum := by
  induction n generalizing f with
  | zero => rfl
  | succ n ih =>
    rw [List.range_succ_eq_map, List.map_cons, List.map_map, List.map_cons, List.map_map, List.sum_cons,
      joinLittle_cons_toNat _ _ (by simp; omega), ih (by omega), ← List.sum_map_mul_left, pow_zero, mul_one]
    congr 3
    funext k
    simp only [Function.comp, pow_succ]
    ring

theorem reverse_range (n : Nat) : (List.range n).reverse = (List.range n).map fun k => n - 1 - k := by
  apply List.ext_getElem <;> simp

/-- The same for either byte order (R63). -/
theorem joinBytes_map_toNat (e : Endian) (n : Nat) (h : n ≤ 8) (f : Nat → Byte) :
    (joinBytes e ((List.range n).map f)).toNat = ((List.range n).map fun k => (f k).toNat * 256 ^ byteOrder e n k).sum := by
  cases e with
  | little => exact joinLittle_map_toNat n h f
  | big =>
    rw [joinBytes, ← List.map_reverse, reverse_range, List.map_map, joinLittle_map_toNat n h, ← List.sum_reverse,
      ← List.map_reverse, reverse_range, List.map_map]
    congr 1
    apply List.map_congr_left
    intro k hk
    have : n - 1 - (n - 1 - k) = k := by have := List.mem_range.mp hk; omega
    simp [byteOrder, Function.comp, this]

/-- n bytes make a value below 256^n. -/
theorem joinLittle_lt (n : Nat) (h : n ≤ 8) (f : Nat → Byte) : (joinLittle ((List.range n).map f)).toNat < 256 ^ n := by
  induction n generalizing f with
  | zero => simp [joinLittle]
  | succ n ih =>
    rw [List.range_succ_eq_map, List.map_cons, List.map_map, joinLittle_cons_toNat _ _ (by simp; omega), pow_succ]
    have := ih (by omega) (f ∘ Nat.succ)
    have := (f 0).isLt
    omega

/-- The bytes of an access joined are the number they stand for (R63, R66). -/
theorem joinBytes_toNat (s : State) (a : Addr) (n : Size) :
    (joinBytes s.cfg.endian (s.readBytes a n.bytes)).toNat = valueAt s a n.bytes := by
  rw [readBytes_eq_bytesAt]
  exact joinBytes_map_toNat s.cfg.endian _ n.bytes_le _

/-- A value of n bytes is below 256^n. -/
theorem valueAt_lt (s : State) (a : Addr) (n : Size) : valueAt s a n.bytes < 256 ^ n.bytes := by
  rw [← joinBytes_toNat, readBytes_eq_bytesAt]
  cases s.cfg.endian with
  | little => exact joinLittle_lt _ n.bytes_le _
  | big =>
    rw [joinBytes, bytesAt, ← List.map_reverse, reverse_range, List.map_map]
    exact joinLittle_lt _ n.bytes_le _

/-- Where it is allowed a read answers the number the bytes stand for (R66). -/
theorem memRead_value {s : State} {a : Addr} {n : Size} (h : accessAllowed s a n) :
    memRead s a n = .ok (BitVec.ofNat 64 (valueAt s a n.bytes)) := by
  rw [memRead_of_allowed h, ← joinBytes_toNat, BitVec.ofNat_toNat, BitVec.setWidth_eq]

/-- Byte k of what a store writes (R63, R67). -/
theorem splitLittle_getD (n : Nat) (v : QWord) (k : Nat) (h : k < n) : (splitLittle n v).getD k 0 = byteOf v k := by
  induction n generalizing v k with
  | zero => omega
  | succ n ih =>
    cases k with
    | zero =>
      apply BitVec.eq_of_toNat_eq
      simp [splitLittle, byteOf]
    | succ k =>
      have := ih (v >>> 8) k (by omega)
      simp only [splitLittle, List.getD_cons_succ]
      rw [this]
      apply BitVec.eq_of_getLsbD_eq
      intro i hi
      simp only [byteOf, BitVec.getLsbD_extractLsb', BitVec.getLsbD_ushiftRight, hi, decide_true, Bool.true_and]
      congr 1
      omega

theorem splitBytes_getD (e : Endian) (n : Nat) (v : QWord) (k : Nat) (h : k < n) :
    (splitBytes e n v).getD k 0 = byteOf v (byteOrder e n k) := by
  cases e with
  | little => exact splitLittle_getD n v k h
  | big =>
    have hl := splitLittle_length n v
    rw [splitBytes, byteOrder, ← splitLittle_getD n v (n - 1 - k) (by omega)]
    have hk : n - 1 - k < n := by omega
    simp [List.getD_eq_getElem?_getD, hl, h, hk]

/-- The bytes of a store, listed one by one (R63). -/
theorem splitBytes_eq_bytesOf (s : State) (n : Nat) (v : QWord) : splitBytes s.cfg.endian n v = bytesOf s n v := by
  apply List.ext_getElem
  · simp [bytesOf]
  · intro k h1 h2
    have hk : k < n := by simpa using h1
    have := splitBytes_getD s.cfg.endian n v k hk
    simpa [bytesOf, List.getD_eq_getElem?_getD, hk] using this

/-- A completed store: its bytes and what it leaves (R67). -/
theorem storedAt_storeBytes (s : State) (a : Addr) (n : Size) (v : QWord) :
    storedAt a n.bytes v s (s.storeBytes a n (splitBytes s.cfg.endian n.bytes v)) := by
  have hl : (splitBytes s.cfg.endian n.bytes v).length = n.bytes := splitBytes_length _ _ _
  refine ⟨fun k hk hp => ?_, ?_⟩
  · rw [← splitBytes_getD s.cfg.endian n.bytes v k hk]
    exact Memory.read_writeBytes_at s.mem _ a _ (by have := n.bytes_le; omega) k (by omega) hp
  · have := keepsMemoryOutside_storeBytes s a n (splitBytes s.cfg.endian n.bytes v)
    rwa [hl] at this

/-- The bytes a completed store left in memory are those read there (R66, R67). -/
theorem readBytes_storeBytes {s : State} {a : Addr} {n : Size} (v : QWord) (h : inMemory s a n.bytes) :
    (s.storeBytes a n (splitBytes s.cfg.endian n.bytes v)).readBytes a n.bytes = splitBytes s.cfg.endian n.bytes v := by
  rw [readBytes_eq_bytesAt, splitBytes_eq_bytesOf]
  apply List.map_congr_left
  intro k hk
  have hk := List.mem_range.mp hk
  rw [State.byteAt_plain (by exact h k hk), ← splitBytes_eq_bytesOf]
  exact (storedAt_storeBytes s a n v).1 k hk (h k hk)

/-- Where a store is allowed it completes (R150). -/
theorem storeStep_effect_of_allowed {n : Size} {length : Addr} {c : RegNum} {ea : Addr} {s : State} (h : accessAllowed s ea n) :
    ∃ t, storeStep n length c ea s = .next t ∧ storeEffect ea n (s.readReg c) length s t := by
  refine ⟨_, by rw [storeStep, memWrite_of_allowed h]; rfl, ?_⟩
  refine ⟨storedAt_storeBytes s ea n (s.readReg c), ?_, keepsRegs_of_regs rfl rfl, rfl, rfl, rfl, rfl, rfl, rfl⟩
  rw [← splitBytes_eq_bytesOf]
  rfl

/-- Where a load is allowed it completes (R150, R155). -/
theorem loadStep_effect_of_allowed {n : Size} {length : Addr} {c : RegNum} {ea : Addr} {s : State} (h : accessAllowed s ea n)
    (hq : n = .qword → s.cfg.ext.q = true) :
    ∃ t, loadStep n length c ea s = .next t ∧ loadEffect c ea n length s t := by
  refine ⟨_, by rw [loadStep, memRead_value h]; rfl, ?_⟩
  have hv : s.clip (BitVec.ofNat 64 (valueAt s ea n.bytes)) = BitVec.ofNat 64 (valueAt s ea n.bytes) := by
    by_cases hn : n = .qword
    · exact State.clip_of_q (hq hn) _
    · have hlt : valueAt s ea n.bytes < 2 ^ 32 := by
        refine Nat.lt_of_lt_of_le (valueAt_lt s ea n) ?_
        cases n <;> simp [Size.bytes] at hn ⊢
      apply BitVec.eq_of_toNat_eq
      rw [State.clip]
      split
      · rfl
      · simp only [BitVec.toNat_setWidth, BitVec.toNat_ofNat]
        omega
  refine ⟨writesReg_of_regs (by simp) ?_ hv, by simp [presents], by simp, by simp, by simp, keepsMemory_of_mem (by simp),
    by simp [keepsParameters]⟩
  rw [State.advance_regs]
  exact State.writeReg_regs_congr (s := s) (t := s.present _) rfl rfl

/-- A fetch answers the word at its address (R64). -/
theorem fetchWord_of_allowed {s : State} {a : Addr} (h : fetchAllowed s a) : fetchWord s a = .ok (wordAt s a) := by
  have hj := joinBytes_toNat s a .dword
  have : ¬ (s.cfg.misaligned = .refuse ∧ a.toNat % 4 ≠ 0) := by
    rcases h.2 with hm | hm <;> simp [hm]
  rw [fetchWord, if_neg (by simp [h.1]), if_neg this]
  congr 1
  apply BitVec.eq_of_toNat_eq
  simp only [Size.bytes] at hj
  simp [wordAt, hj]

/-- Where the pc can be fetched, so can the word after it: pc + 4 has the alignment of pc. -/
theorem fetchAllowed_next {s : State} {a : Addr} (h : fetchAllowed s a) : fetchAllowed s (a + 4#32) :=
  ⟨h.1, h.2.imp id fun ha => by rw [BitVec.toNat_add]; simp; omega⟩

/-- An entry where there is no virtual memory: its effect (R305). -/
theorem raiseInterrupt_effect (n : VectorNum) (ra : Addr) {s : State} (h : s.sr.vm = false) :
    ∃ t, raiseInterrupt n ra s = .next t ∧ entryEffect n ra s t ∧ t.requests = s.requests := by
  have hv : vectorAddress n = vectorOf n := by
    apply BitVec.eq_of_toNat_eq
    have := n.isLt
    simp [vectorAddress, vectorOf]
  refine ⟨_, raiseInterrupt_of_novm n ra h, ⟨writesReg_of_regs (by simp) ?_ ?_, by simp, ?_, by simp,
    keepsMemory_of_mem (by simp), by simp [presents, hv], by simp, by simp⟩, by simp⟩
  · rw [State.enter_regs]
    exact State.writeReg_regs_congr (s := s) (t := s.present _) rfl rfl
  · exact State.clip_setWidth_of_le (by omega) s ra
  · have hj := joinBytes_toNat s (vectorAddress n) .dword
    simp only [Size.bytes] at hj
    apply BitVec.eq_of_toNat_eq
    simp [wordAt, ← hv, hj]

/-- A conditional jump (R171). -/
theorem condJump_effect_eq (taken : Bool) (length : Addr) (c : RegNum) {n : Nat} (imm : BitVec n) (s : State) :
    ∃ t, condJump taken length c imm s = .next t ∧
      jumpEffect (if taken then jumpAddress s c imm else s.pc + length) s t := by
  refine ⟨_, rfl, ?_⟩
  cases taken
  · exact ⟨rfl, keepsRegs_of_regs rfl rfl, rfl, rfl, keepsMemory_of_mem rfl, ⟨rfl, rfl, rfl⟩, rfl⟩
  · exact ⟨jumpTarget_eq s c imm, keepsRegs_of_regs rfl rfl, rfl, rfl, keepsMemory_of_mem rfl, ⟨rfl, rfl, rfl⟩, rfl⟩

/-- A register write that moves a value which fits (R145, R251). -/
theorem move_effect {s : State} {c : RegNum} {v : QWord} (length : Addr) (hv : s.clip v = v) :
    moveEffect c v length s ((s.writeReg c v).advance length) :=
  ⟨writesReg_of_regs (by simp) (by simp) hv, by simp, by simp, by simp, keepsMemory_of_mem (by simp), by simp [keepsRest, keepsParameters]⟩

/-- SSB and CSB (R230, R231, R233). -/
theorem putStatus_effect (s : State) (b : StatusBit) (value : Bool) :
    statusEffect (if s.writable b then s.sr.put b value else s.sr) s ((s.putStatus b value).advance shortLength) :=
  ⟨by simp, keepsRegs_of_regs (by simp) (by simp), by simp [shortLength], by simp, keepsMemory_of_mem (by simp), by simp [keepsRest, keepsParameters]⟩

/-! Where an access is refused (R66, R67). -/

theorem accessCheck_refused {s : State} {a : Addr} {n : Size} (h : ¬ accessAllowed s a n) :
    accessCheck s a n = .error (if s.sr.vm then .virtualMemoryNotSpecified else .misalignedAccess) := by
  unfold accessAllowed at h
  unfold accessCheck
  cases hv : s.sr.vm
  · simp [hv] at h
    cases hm : s.cfg.misaligned <;> simp [hm] at h ⊢
    exact h
  · simp

theorem storeStep_refused {n : Size} {length : Addr} {c : RegNum} {ea : Addr} {s : State} (h : ¬ accessAllowed s ea n) :
    storeStep n length c ea s = .refused (if s.sr.vm then .virtualMemoryNotSpecified else .misalignedAccess) := by
  rw [storeStep, memWrite, accessCheck_refused h]
  rfl

theorem loadStep_refused {n : Size} {length : Addr} {c : RegNum} {ea : Addr} {s : State} (h : ¬ accessAllowed s ea n) :
    loadStep n length c ea s = .refused (if s.sr.vm then .virtualMemoryNotSpecified else .misalignedAccess) := by
  rw [loadStep, memRead, accessCheck_refused h]
  rfl

/-! The fetch and the reset event where their reads are allowed. -/

/-- The instruction at the pc is what its two words decode to: a short instruction ignores the second (R92). -/
theorem fetch_of_allowed {s : State} (h : fetchAllowed s s.pc) :
    fetch s = decodeOrRefuse s [wordAt s s.pc, wordAt s (s.pc + 4#32)] := by
  unfold fetch
  rw [fetchWord_of_allowed h, fetchWord_of_allowed (fetchAllowed_next h)]
  simp only
  split
  · rfl
  · rename_i hl
    have : decode s.cfg.ext [wordAt s s.pc] = decode s.cfg.ext [wordAt s s.pc, wordAt s (s.pc + 4#32)] := by
      unfold longFormat at hl
      unfold decode
      cases h1 : isLongOpcode (opcodeOf (wordAt s s.pc)) <;> cases h2 : s.cfg.ext.q <;> simp [h1, h2] at hl ⊢
    unfold decodeOrRefuse
    rw [this]

/-- The reset event reads the reset vector with VM = 0 (R340). -/
theorem resetEvent_of_allowed {s : State} (h : s.cfg.misaligned = .bytewise ∨ s.cfg.rstVec.toNat % 4 = 0) :
    resetEvent s = .next ((s.present (readTransfers s.cfg.rstVec .dword)).afterReset (wordAt s s.cfg.rstVec)) := by
  have ha : accessAllowed { s with sr := { s.sr with vm := false } } s.cfg.rstVec .dword := ⟨rfl, h⟩
  have hv : valueAt { s with sr := { s.sr with vm := false } } s.cfg.rstVec Size.dword.bytes = valueAt s s.cfg.rstVec 4 :=
    valueAt_congr rfl rfl rfl _ _
  have hw : (BitVec.ofNat 64 (valueAt s s.cfg.rstVec 4)).setWidth 32 = wordAt s s.cfg.rstVec := by
    unfold wordAt
    generalize valueAt s s.cfg.rstVec 4 = n
    apply BitVec.eq_of_toNat_eq
    simp
  unfold resetEvent
  rw [memRead_value ha, orRefuse_ok, hv, hw]

/-! Products and quotients. -/

/-- The two halves of a product are the exact value (R281, R282, R283). -/
theorem product_parts {w : Nat} (hw : w = 32 ∨ w = 64) (x y m : BitVec w) :
    exactProduct x y m = (productHigh x y m).toInt * 2 ^ w + (productLow x y m).toNat := by
  have bounds : ∀ z : BitVec w, -2 ^ (w - 1) ≤ z.toInt ∧ z.toInt < 2 ^ (w - 1) := fun z =>
    ⟨BitVec.le_toInt z, BitVec.toInt_lt⟩
  obtain ⟨hx1, hx2⟩ := bounds x
  obtain ⟨hy1, hy2⟩ := bounds y
  obtain ⟨hm1, hm2⟩ := bounds m
  have hp : -2 ^ (w - 1) * 2 ^ w ≤ exactProduct x y m ∧ exactProduct x y m < 2 ^ (w - 1) * 2 ^ w := by
    unfold exactProduct
    generalize x.toInt = a at *
    generalize y.toInt = b at *
    rcases hw with rfl | rfl <;> norm_num at * <;> constructor <;> nlinarith
  have high : (productHigh x y m).toInt = exactProduct x y m / 2 ^ w := by
    rw [productHigh, BitVec.toInt_ofInt]
    generalize exactProduct x y m = p at *
    rcases hw with rfl | rfl <;> (norm_num at *; rw [Int.bmod_eq_of_le] <;> omega)
  have low : ((productLow x y m).toNat : Int) = exactProduct x y m % 2 ^ w := by
    rw [productLow, BitVec.toNat_ofInt]
    generalize exactProduct x y m = p at *
    rcases hw with rfl | rfl <;> (norm_num; omega)
  rw [high, low]
  have := Int.mul_ediv_add_emod (exactProduct x y m) (2 ^ w)
  linarith [mul_comm ((2 : Int) ^ w) (exactProduct x y m / 2 ^ w)]

/-- The low half of a product is the exact value modulo 2^w (R281, R282). -/
theorem productLow_toNat {w : Nat} (x y m : BitVec w) : ((productLow x y m).toNat : Int) = exactProduct x y m % 2 ^ w := by
  rw [productLow, BitVec.toNat_ofInt, Int.toNat_of_nonneg (Int.emod_nonneg _ (by positivity))]
  norm_cast

/-- MUL and MLC while FPM = 0 (R280 to R283). -/
theorem multiplyStep_integer (fn1 : BitVec 3) (withCarryIn : Bool) (c a b : RegNum) {s : State} (h : s.fpm = false)
    (m : BitVec s.opWidth) :
    ∃ t, multiplyStep fn1 withCarryIn c a b s m = .next t ∧
      productEffect c (exactProduct (s.regOperand a) (s.regOperand b) m) s
        (fun r mc => r = productLow (s.regOperand a) (s.regOperand b) m ∧
          mc = s.mulCarryOut withCarryIn (s.regOperand a) (s.regOperand b) m) t := by
  refine ⟨_, by rw [multiplyStep, if_neg (by simp [h])], ⟨_, ?_, ?_, productLow_toNat _ _ m, rfl, ?_⟩, ?_⟩
  · exact writesReg_of_regs (by simp) (by simp) (State.clip_setWidth_opWidth s _)
  · simp [beq_eq_decide]
  · rfl
  · exact ⟨by simp [shortLength], keepsMemory_of_mem (by simp), by simp, by simp, by simp⟩

/-- DIV and MOD while FPM = 0, but where they are refused (R280, R284, R285). -/
theorem divideStep_integer (fn1 : BitVec 3) (c a b : RegNum) {s : State} (h : s.fpm = false)
    (stated : BitVec s.opWidth → BitVec s.opWidth → BitVec s.opWidth)
    (hd : divisionOpen (s.regOperand a) (s.regOperand b) = false ∨ s.cfg.divZero = .anyValue) :
    ∃ t, divideStep fn1 c a b s stated = .next t ∧
      divisionEffect c (divisionResult s.draws stated (s.regOperand a) (s.regOperand b)) s t := by
  refine ⟨_, by rw [divideStep, if_neg (by simp [h]), if_neg (by rcases hd with hd | hd <;> simp [hd])], ?_⟩
  exact ⟨writesReg_of_regs (by simp) (by simp) (State.clip_setWidth_opWidth s _), by simp [beq_eq_decide], by simp,
    by simp [shortLength], keepsMemory_of_mem (by simp), by simp, by simp, by simp⟩

/-- DIV and MOD where no result is stated and `DivZero` is refuse (R286). -/
theorem divideStep_refused (fn1 : BitVec 3) (c a b : RegNum) {s : State} (h : s.fpm = false)
    (stated : BitVec s.opWidth → BitVec s.opWidth → BitVec s.opWidth)
    (hd : divisionOpen (s.regOperand a) (s.regOperand b) = true) (hz : s.cfg.divZero = .refuse) :
    divideStep fn1 c a b s stated = .refused .divisionResultNotSpecified := by
  rw [divideStep, if_neg (by simp [h]), if_pos ⟨hd, hz⟩]

end Sys2Proof.Machine
end

