-- ==== Sys2Proof/Laws/Exec.lean ====
section
/-! SUPPORT. What an instruction can do, said once for all of them: `exec_effect`. -/

namespace Sys2Proof.Machine

/-- The shapes of next state an instruction can give. -/
inductive Effect (s : State) : State → Prop where
  /-- An integer ALU operation. -/
  | alu (c : RegNum) (out : AluOut s.opWidth) (length : Addr) : Effect s ((s.writeAlu c out).advance length)
  /-- A floating point operation. -/
  | float (c : RegNum) (out : FpOut s.opWidth) (length : Addr) : Effect s ((s.writeFloat c out).advance length)
  /-- MUL or MLC. -/
  | multiply (c : RegNum) (r : BitVec s.opWidth) (m : QWord) (hm : m = s.mc ∨ ∃ x : BitVec s.opWidth, m = x.setWidth 64) :
    Effect s ({ s.writeMulDiv c r with mc := m }.advance shortLength)
  /-- DIV or MOD. -/
  | divide (c : RegNum) (r : BitVec s.opWidth) : Effect s ((s.writeMulDiv c r).advance shortLength)
  /-- An upper immediate. -/
  | move (c : RegNum) (v : QWord) (length : Addr) : Effect s ((s.writeReg c v).advance length)
  | load (c : RegNum) (v : QWord) (ts : List Transfer) (length : Addr) :
    Effect s (((s.present ts).writeReg c v).advance length)
  | store (a : Addr) (n : Size) (bs : List Byte) (length : Addr) : Effect s ((s.storeBytes a n bs).advance length)
  /-- A jump, taken or not. -/
  | jump (target : Addr) : Effect s (s.jumpTo target)
  /-- SSB or CSB. -/
  | status (b : StatusBit) (value : Bool) (length : Addr) : Effect s ((s.putStatus b value).advance length)
  /-- INT. -/
  | enter (ts : List Transfer) (ra target : Addr) : Effect s ((s.present ts).enter ra target)
  /-- URT. -/
  | leave : Effect s s.returnToUser

theorem floatingStep_effect {length : Addr} {c : RegNum} {s t : State} {out : FpOut s.opWidth}
    (h : floatingStep length c s out = .next t) : Effect s t := by
  unfold floatingStep at h
  split at h
  · cases h
  · exact next_inj h ▸ .float c out length

theorem aluStep_effect {key : AluKey} {length : Addr} {c : RegNum} {s t : State} {a b : BitVec s.opWidth}
    {out : AluOut s.opWidth} (h : aluStep key length c s a b out = .next t) : Effect s t := by
  unfold aluStep at h
  split at h
  · exact floatingStep_effect h
  · exact next_inj h ▸ .alu c out length

theorem loadStep_effect {n : Size} {length : Addr} {c : RegNum} {ea : Addr} {s t : State}
    (h : loadStep n length c ea s = .next t) : Effect s t := by
  obtain ⟨v, -, ht⟩ := orRefuse_next h
  exact next_inj ht ▸ .load c v _ length

theorem storeStep_effect {n : Size} {length : Addr} {c : RegNum} {ea : Addr} {s t : State}
    (h : storeStep n length c ea s = .next t) : Effect s t := by
  obtain ⟨u, hu, ht⟩ := orRefuse_next h
  obtain ⟨-, rfl⟩ := memWrite_ok hu
  exact next_inj ht ▸ .store ea n _ length

theorem condJump_effect {taken : Bool} {length : Addr} {c : RegNum} {n : Nat} {imm : BitVec n} {s t : State}
    (h : condJump taken length c imm s = .next t) : Effect s t := by
  have h := next_inj h
  subst h
  split
  · exact .jump _
  · exact .jump _

/-- MC after MUL or MLC is as before or W bits, zero-extended (R283). -/
theorem mulCarryOut_cases (s : State) (withCarryIn : Bool) (x y m : BitVec s.opWidth) :
    s.mulCarryOut withCarryIn x y m = s.mc ∨ ∃ z : BitVec s.opWidth, s.mulCarryOut withCarryIn x y m = z.setWidth 64 := by
  unfold State.mulCarryOut
  split
  · exact .inr ⟨_, rfl⟩
  · exact .inr ⟨_, rfl⟩
  · split
    · exact .inr ⟨_, rfl⟩
    · exact .inl rfl
  · exact .inr ⟨_, rfl⟩

theorem multiplyStep_effect {fn1 : BitVec 3} {withCarryIn : Bool} {c a b : RegNum} {s t : State} {m : BitVec s.opWidth}
    (h : multiplyStep fn1 withCarryIn c a b s m = .next t) : Effect s t := by
  unfold multiplyStep at h
  simp only at h
  split at h
  · exact floatingStep_effect h
  · exact next_inj h ▸ .multiply c _ _ (mulCarryOut_cases s withCarryIn _ _ _)

theorem divideStep_effect {fn1 : BitVec 3} {c a b : RegNum} {s t : State}
    {stated : BitVec s.opWidth → BitVec s.opWidth → BitVec s.opWidth} (h : divideStep fn1 c a b s stated = .next t) :
    Effect s t := by
  unfold divideStep at h
  simp only at h
  split at h
  · exact floatingStep_effect h
  · split at h
    · cases h
    · exact next_inj h ▸ .divide c _

/-- Whatever an instruction does is one of these shapes. -/
theorem exec_effect {i : Instr} {s t : State} (h : exec i s = .next t) : Effect s t := by
  cases i
  case add | adc | sub | sbc | and | or | xor | addi | adci | subi | sbci | andi | ori | xori | shr | asr | srn | ror | sln
    | addi64 | adci64 | subi64 | sbci64 | andi64 | ori64 | xori64 => exact aluStep_effect h
  case jmp | jmp64 => exact next_inj h ▸ .jump _
  case jz | jc | js | jv | jnz | jnc | jns | jnv | jz64 | jc64 | js64 | jv64 | jnz64 | jnc64 | jns64 | jnv64 =>
    exact condJump_effect h
  case stb | stw | std | stq | stb64 | stw64 | std64 | stq64 => exact storeStep_effect h
  case ldb | ldw | ldd | ldq | ldb64 | ldw64 | ldd64 | ldq64 => exact loadStep_effect h
  case mvu => exact next_inj h ▸ .move _ _ _
  case mvu64 => exact next_inj h ▸ .move _ _ _
  case int =>
    obtain ⟨v, -, rfl⟩ := raiseInterrupt_next h
    exact .enter _ _ _
  case ssb => exact next_inj h ▸ .status _ _ _
  case csb => exact next_inj h ▸ .status _ _ _
  case urt => exact next_inj h ▸ .leave
  case mul | mlc => exact multiplyStep_effect h
  case div | mod => exact divideStep_effect h
  case itf | fti | sqr => exact floatingStep_effect h

end Sys2Proof.Machine
end

