-- ==== Sys2Proof/Laws/PerInstr.lean ====
section
/-! SUPPORT. Families of statements made for each instruction. -/

namespace Sys2Proof.Laws

/-- The encoder's word of an instruction selects that instruction's row of spec/opcode_table.json: the word under the row's
mask is the row's match (spec/INDEX.md, 30_encoding.md R106). -/
def TableRow.Statement (i : Instr) : Prop := i.row.selects i.code = true

theorem selects_short {w p m q : DWord} (h : w &&& m = q) (hq : q = p) : (Row.short p m).selects (.short w) = true := by
  subst hq
  simp [Row.short, Row.selects, h]

theorem selects_long {w p m q : QWord} (h : w &&& m = q) (hq : q = p) : (Row.long p m).selects (.long w) = true := by
  subst hq
  simp [Row.long, Row.selects, h]

theorem TableRow.add (c : RegNum) (a : RegNum) (b : RegNum) : TableRow.Statement (.add c a b) :=
  selects_short (format5_mask 0b00000 c a b 0) (by decide)

theorem TableRow.adc (c : RegNum) (a : RegNum) (b : RegNum) : TableRow.Statement (.adc c a b) :=
  selects_short (format5_mask 0b00000 c a b 1) (by decide)

theorem TableRow.sub (c : RegNum) (a : RegNum) (b : RegNum) : TableRow.Statement (.sub c a b) :=
  selects_short (format5_mask 0b00000 c a b 2) (by decide)

theorem TableRow.sbc (c : RegNum) (a : RegNum) (b : RegNum) : TableRow.Statement (.sbc c a b) :=
  selects_short (format5_mask 0b00000 c a b 3) (by decide)

theorem TableRow.and (c : RegNum) (a : RegNum) (b : RegNum) : TableRow.Statement (.and c a b) :=
  selects_short (format5_mask 0b00000 c a b 4) (by decide)

theorem TableRow.or (c : RegNum) (a : RegNum) (b : RegNum) : TableRow.Statement (.or c a b) :=
  selects_short (format5_mask 0b00000 c a b 5) (by decide)

theorem TableRow.xor (c : RegNum) (a : RegNum) (b : RegNum) : TableRow.Statement (.xor c a b) :=
  selects_short (format5_mask 0b00000 c a b 6) (by decide)

theorem TableRow.addi (c : RegNum) (a : RegNum) (imm : BitVec 14) : TableRow.Statement (.addi c a imm) :=
  selects_short (format6_mask 0b00001 c a 0 imm) (by decide)

theorem TableRow.adci (c : RegNum) (a : RegNum) (imm : BitVec 14) : TableRow.Statement (.adci c a imm) :=
  selects_short (format6_mask 0b00001 c a 1 imm) (by decide)

theorem TableRow.subi (c : RegNum) (a : RegNum) (imm : BitVec 14) : TableRow.Statement (.subi c a imm) :=
  selects_short (format6_mask 0b00001 c a 2 imm) (by decide)

theorem TableRow.sbci (c : RegNum) (a : RegNum) (imm : BitVec 14) : TableRow.Statement (.sbci c a imm) :=
  selects_short (format6_mask 0b00001 c a 3 imm) (by decide)

theorem TableRow.andi (c : RegNum) (a : RegNum) (imm : BitVec 14) : TableRow.Statement (.andi c a imm) :=
  selects_short (format6_mask 0b00001 c a 4 imm) (by decide)

theorem TableRow.ori (c : RegNum) (a : RegNum) (imm : BitVec 14) : TableRow.Statement (.ori c a imm) :=
  selects_short (format6_mask 0b00001 c a 5 imm) (by decide)

theorem TableRow.xori (c : RegNum) (a : RegNum) (imm : BitVec 14) : TableRow.Statement (.xori c a imm) :=
  selects_short (format6_mask 0b00001 c a 6 imm) (by decide)

theorem TableRow.shr (c : RegNum) (a : RegNum) : TableRow.Statement (.shr c a) :=
  selects_short (format7_mask 0b00010 c a 0) (by decide)

theorem TableRow.asr (c : RegNum) (a : RegNum) : TableRow.Statement (.asr c a) :=
  selects_short (format7_mask 0b00010 c a 1) (by decide)

theorem TableRow.srn (c : RegNum) (a : RegNum) : TableRow.Statement (.srn c a) :=
  selects_short (format7_mask 0b00010 c a 2) (by decide)

theorem TableRow.ror (c : RegNum) (a : RegNum) : TableRow.Statement (.ror c a) :=
  selects_short (format7_mask 0b00010 c a 3) (by decide)

theorem TableRow.sln (c : RegNum) (a : RegNum) : TableRow.Statement (.sln c a) :=
  selects_short (format7_mask 0b00010 c a 4) (by decide)

theorem TableRow.jmp (c : RegNum) (imm : BitVec 15) : TableRow.Statement (.jmp c imm) :=
  selects_short (format3_maskOpcode 0b00100 c 0 0 imm) (by decide)

theorem TableRow.jz (c : RegNum) (imm : BitVec 19) : TableRow.Statement (.jz c imm) :=
  selects_short (format4_mask 0b00110 c 0 imm) (by decide)

theorem TableRow.jc (c : RegNum) (imm : BitVec 19) : TableRow.Statement (.jc c imm) :=
  selects_short (format4_mask 0b00110 c 1 imm) (by decide)

theorem TableRow.js (c : RegNum) (imm : BitVec 19) : TableRow.Statement (.js c imm) :=
  selects_short (format4_mask 0b00110 c 2 imm) (by decide)

theorem TableRow.jv (c : RegNum) (imm : BitVec 19) : TableRow.Statement (.jv c imm) :=
  selects_short (format4_mask 0b00110 c 3 imm) (by decide)

theorem TableRow.jnz (c : RegNum) (imm : BitVec 19) : TableRow.Statement (.jnz c imm) :=
  selects_short (format4_mask 0b00110 c 4 imm) (by decide)

theorem TableRow.jnc (c : RegNum) (imm : BitVec 19) : TableRow.Statement (.jnc c imm) :=
  selects_short (format4_mask 0b00110 c 5 imm) (by decide)

theorem TableRow.jns (c : RegNum) (imm : BitVec 19) : TableRow.Statement (.jns c imm) :=
  selects_short (format4_mask 0b00110 c 6 imm) (by decide)

theorem TableRow.jnv (c : RegNum) (imm : BitVec 19) : TableRow.Statement (.jnv c imm) :=
  selects_short (format4_mask 0b00110 c 7 imm) (by decide)

theorem TableRow.stb (c : RegNum) (a : RegNum) (imm : BitVec 15) : TableRow.Statement (.stb c a imm) :=
  selects_short (format3_mask 0b01000 c a 0 imm) (by decide)

theorem TableRow.stw (c : RegNum) (a : RegNum) (imm : BitVec 15) : TableRow.Statement (.stw c a imm) :=
  selects_short (format3_mask 0b01000 c a 1 imm) (by decide)

theorem TableRow.std (c : RegNum) (a : RegNum) (imm : BitVec 15) : TableRow.Statement (.std c a imm) :=
  selects_short (format3_mask 0b01000 c a 2 imm) (by decide)

theorem TableRow.stq (c : RegNum) (a : RegNum) (imm : BitVec 15) : TableRow.Statement (.stq c a imm) :=
  selects_short (format3_mask 0b01000 c a 3 imm) (by decide)

theorem TableRow.ldb (c : RegNum) (a : RegNum) (imm : BitVec 15) : TableRow.Statement (.ldb c a imm) :=
  selects_short (format3_mask 0b01001 c a 0 imm) (by decide)

theorem TableRow.ldw (c : RegNum) (a : RegNum) (imm : BitVec 15) : TableRow.Statement (.ldw c a imm) :=
  selects_short (format3_mask 0b01001 c a 1 imm) (by decide)

theorem TableRow.ldd (c : RegNum) (a : RegNum) (imm : BitVec 15) : TableRow.Statement (.ldd c a imm) :=
  selects_short (format3_mask 0b01001 c a 2 imm) (by decide)

theorem TableRow.ldq (c : RegNum) (a : RegNum) (imm : BitVec 15) : TableRow.Statement (.ldq c a imm) :=
  selects_short (format3_mask 0b01001 c a 3 imm) (by decide)

theorem TableRow.mvu (c : RegNum) (imm : BitVec 22) : TableRow.Statement (.mvu c imm) :=
  selects_short (format2_mask 0b01010 c imm) (by decide)

theorem TableRow.int (table : VectorNum) : TableRow.Statement (.int table) :=
  selects_short (format1_mask 0b01011 table) (by decide)

theorem TableRow.ssb (bit : StatusBit) : TableRow.Statement (.ssb bit) :=
  selects_short (format9_mask 0b01110 (bit.number) 1) (by decide)

theorem TableRow.csb (bit : StatusBit) : TableRow.Statement (.csb bit) :=
  selects_short (format9_mask 0b01110 (bit.number) 0) (by decide)

theorem TableRow.urt : TableRow.Statement (.urt) :=
  selects_short (format8_mask 0b01111) (by decide)

theorem TableRow.addi64 (c : RegNum) (a : RegNum) (imm : BitVec 46) : TableRow.Statement (.addi64 c a imm) :=
  selects_long (format13_mask 0b10000 c a 0 imm) (by decide)

theorem TableRow.adci64 (c : RegNum) (a : RegNum) (imm : BitVec 46) : TableRow.Statement (.adci64 c a imm) :=
  selects_long (format13_mask 0b10000 c a 1 imm) (by decide)

theorem TableRow.subi64 (c : RegNum) (a : RegNum) (imm : BitVec 46) : TableRow.Statement (.subi64 c a imm) :=
  selects_long (format13_mask 0b10000 c a 2 imm) (by decide)

theorem TableRow.sbci64 (c : RegNum) (a : RegNum) (imm : BitVec 46) : TableRow.Statement (.sbci64 c a imm) :=
  selects_long (format13_mask 0b10000 c a 3 imm) (by decide)

theorem TableRow.andi64 (c : RegNum) (a : RegNum) (imm : BitVec 46) : TableRow.Statement (.andi64 c a imm) :=
  selects_long (format13_mask 0b10000 c a 4 imm) (by decide)

theorem TableRow.ori64 (c : RegNum) (a : RegNum) (imm : BitVec 46) : TableRow.Statement (.ori64 c a imm) :=
  selects_long (format13_mask 0b10000 c a 5 imm) (by decide)

theorem TableRow.xori64 (c : RegNum) (a : RegNum) (imm : BitVec 46) : TableRow.Statement (.xori64 c a imm) :=
  selects_long (format13_mask 0b10000 c a 6 imm) (by decide)

theorem TableRow.mvu64 (c : RegNum) (imm : BitVec 54) : TableRow.Statement (.mvu64 c imm) :=
  selects_long (format10_mask 0b10001 c imm) (by decide)

theorem TableRow.ldb64 (c : RegNum) (a : RegNum) (imm : BitVec 47) : TableRow.Statement (.ldb64 c a imm) :=
  selects_long (format11_mask 0b10010 c a 0 imm) (by decide)

theorem TableRow.ldw64 (c : RegNum) (a : RegNum) (imm : BitVec 47) : TableRow.Statement (.ldw64 c a imm) :=
  selects_long (format11_mask 0b10010 c a 1 imm) (by decide)

theorem TableRow.ldd64 (c : RegNum) (a : RegNum) (imm : BitVec 47) : TableRow.Statement (.ldd64 c a imm) :=
  selects_long (format11_mask 0b10010 c a 2 imm) (by decide)

theorem TableRow.ldq64 (c : RegNum) (a : RegNum) (imm : BitVec 47) : TableRow.Statement (.ldq64 c a imm) :=
  selects_long (format11_mask 0b10010 c a 3 imm) (by decide)

theorem TableRow.stb64 (c : RegNum) (a : RegNum) (imm : BitVec 47) : TableRow.Statement (.stb64 c a imm) :=
  selects_long (format11_mask 0b10011 c a 0 imm) (by decide)

theorem TableRow.stw64 (c : RegNum) (a : RegNum) (imm : BitVec 47) : TableRow.Statement (.stw64 c a imm) :=
  selects_long (format11_mask 0b10011 c a 1 imm) (by decide)

theorem TableRow.std64 (c : RegNum) (a : RegNum) (imm : BitVec 47) : TableRow.Statement (.std64 c a imm) :=
  selects_long (format11_mask 0b10011 c a 2 imm) (by decide)

theorem TableRow.stq64 (c : RegNum) (a : RegNum) (imm : BitVec 47) : TableRow.Statement (.stq64 c a imm) :=
  selects_long (format11_mask 0b10011 c a 3 imm) (by decide)

theorem TableRow.jmp64 (c : RegNum) (imm : BitVec 54) : TableRow.Statement (.jmp64 c imm) :=
  selects_long (format10_mask 0b10100 c imm) (by decide)

theorem TableRow.jz64 (c : RegNum) (imm : BitVec 51) : TableRow.Statement (.jz64 c imm) :=
  selects_long (format12_mask 0b10101 c 0 imm) (by decide)

theorem TableRow.jc64 (c : RegNum) (imm : BitVec 51) : TableRow.Statement (.jc64 c imm) :=
  selects_long (format12_mask 0b10101 c 1 imm) (by decide)

theorem TableRow.js64 (c : RegNum) (imm : BitVec 51) : TableRow.Statement (.js64 c imm) :=
  selects_long (format12_mask 0b10101 c 2 imm) (by decide)

theorem TableRow.jv64 (c : RegNum) (imm : BitVec 51) : TableRow.Statement (.jv64 c imm) :=
  selects_long (format12_mask 0b10101 c 3 imm) (by decide)

theorem TableRow.jnz64 (c : RegNum) (imm : BitVec 51) : TableRow.Statement (.jnz64 c imm) :=
  selects_long (format12_mask 0b10101 c 4 imm) (by decide)

theorem TableRow.jnc64 (c : RegNum) (imm : BitVec 51) : TableRow.Statement (.jnc64 c imm) :=
  selects_long (format12_mask 0b10101 c 5 imm) (by decide)

theorem TableRow.jns64 (c : RegNum) (imm : BitVec 51) : TableRow.Statement (.jns64 c imm) :=
  selects_long (format12_mask 0b10101 c 6 imm) (by decide)

theorem TableRow.jnv64 (c : RegNum) (imm : BitVec 51) : TableRow.Statement (.jnv64 c imm) :=
  selects_long (format12_mask 0b10101 c 7 imm) (by decide)

theorem TableRow.mul (c : RegNum) (a : RegNum) (b : RegNum) : TableRow.Statement (.mul c a b) :=
  selects_short (format5_mask 0b10110 c a b 0) (by decide)

theorem TableRow.mlc (c : RegNum) (a : RegNum) (b : RegNum) : TableRow.Statement (.mlc c a b) :=
  selects_short (format5_mask 0b10110 c a b 1) (by decide)

theorem TableRow.div (c : RegNum) (a : RegNum) (b : RegNum) : TableRow.Statement (.div c a b) :=
  selects_short (format5_mask 0b10110 c a b 2) (by decide)

theorem TableRow.mod (c : RegNum) (a : RegNum) (b : RegNum) : TableRow.Statement (.mod c a b) :=
  selects_short (format5_mask 0b10110 c a b 4) (by decide)

theorem TableRow.itf (c : RegNum) (a : RegNum) : TableRow.Statement (.itf c a) :=
  selects_short (format5_mask 0b10111 c a 0 0) (by decide)

theorem TableRow.fti (c : RegNum) (a : RegNum) : TableRow.Statement (.fti c a) :=
  selects_short (format5_mask 0b10111 c a 0 1) (by decide)

theorem TableRow.sqr (c : RegNum) (a : RegNum) : TableRow.Statement (.sqr c a) :=
  selects_short (format5_mask 0b10111 c a 0 2) (by decide)

end Sys2Proof.Laws
end

