-- ==== Sys2Proof/Laws/Requests.lean ====
section
/-! SUPPORT. The fetch and every instruction are blind to the platform's answers to come (R309): with other answers, an
outcome is the same outcome with those answers. -/

namespace Sys2Proof.Machine

/-- The state with other answers of the platform to come. -/
def State.awaiting (q : List (Option VectorNum)) (s : State) : State := { s with requests := q }

/-- An outcome with other answers of the platform to come. -/
def outcomeAwaiting (q : List (Option VectorNum)) : Host.Outcome State Fault Refusal → Host.Outcome State Fault Refusal
  | .next t => .next (t.awaiting q)
  | .fault f => .fault f
  | .refused r => .refused r

theorem State.writeReg_awaiting (q : List (Option VectorNum)) (s : State) (c : RegNum) (v : QWord) :
    (s.awaiting q).writeReg c v = (s.writeReg c v).awaiting q := by
  show State.writeReg _ _ _ = _
  unfold State.writeReg
  split <;> rfl

theorem State.writeFloat_awaiting (q : List (Option VectorNum)) (s : State) (c : RegNum) {w : Nat} (out : FpOut w) :
    (s.awaiting q).writeFloat c out = (s.writeFloat c out).awaiting q := by
  unfold State.writeFloat; rw [writeReg_awaiting]; rfl

theorem State.writeAlu_awaiting (q : List (Option VectorNum)) (s : State) (c : RegNum) {w : Nat} (out : AluOut w) :
    (s.awaiting q).writeAlu c out = (s.writeAlu c out).awaiting q := by
  unfold State.writeAlu; rw [writeReg_awaiting]; rfl

theorem State.readBytes_awaiting (q : List (Option VectorNum)) (s : State) :
    ∀ (n : Nat) (a : Addr), (s.awaiting q).readBytes a n = s.readBytes a n
  | 0, _ => rfl
  | n + 1, a => by rw [State.readBytes, State.readBytes, State.readBytes_awaiting q s n]; rfl

theorem memRead_awaiting (q : List (Option VectorNum)) (s : State) (a : Addr) (n : Size) :
    memRead (s.awaiting q) a n = memRead s a n := by
  unfold memRead; rw [State.readBytes_awaiting]; rfl

theorem fetchWord_awaiting (q : List (Option VectorNum)) (s : State) (a : Addr) :
    fetchWord (s.awaiting q) a = fetchWord s a := by
  unfold fetchWord; rw [State.readBytes_awaiting]; rfl

theorem fetch_awaiting (q : List (Option VectorNum)) (s : State) : fetch (s.awaiting q) = fetch s := by
  unfold fetch; simp only [fetchWord_awaiting]; rfl

theorem floatingStep_awaiting (q : List (Option VectorNum)) (length : Addr) (c : RegNum) (s : State) (out : FpOut s.opWidth) :
    floatingStep length c (s.awaiting q) out = outcomeAwaiting q (floatingStep length c s out) := by
  have h : (s.awaiting q).cfg.fp = s.cfg.fp := rfl
  unfold floatingStep
  rw [h, State.writeFloat_awaiting]
  cases s.cfg.fp <;> rfl

theorem aluStep_awaiting (q : List (Option VectorNum)) (key : AluKey) (length : Addr) (c : RegNum) (s : State)
    (a b : BitVec s.opWidth) (out : AluOut s.opWidth) :
    aluStep key length c (s.awaiting q) a b out = outcomeAwaiting q (aluStep key length c s a b out) := by
  unfold aluStep
  show (if s.fpm then _ else _) = _
  split
  · exact floatingStep_awaiting q length c s _
  · exact congrArg (fun u : State => (Host.Outcome.next (u.advance length) : Host.Outcome State Fault Refusal))
      (State.writeAlu_awaiting q s c out)

theorem loadStep_awaiting (q : List (Option VectorNum)) (n : Size) (length : Addr) (c : RegNum) (ea : Addr) (s : State) :
    loadStep n length c ea (s.awaiting q) = outcomeAwaiting q (loadStep n length c ea s) := by
  unfold loadStep
  rw [memRead_awaiting]
  cases memRead s ea n with
  | error r => rfl
  | ok v =>
    show Host.Outcome.next ((State.writeReg ((s.present _).awaiting q) c v).advance length) = _
    rw [State.writeReg_awaiting]; rfl

theorem storeStep_awaiting (q : List (Option VectorNum)) (n : Size) (length : Addr) (c : RegNum) (ea : Addr) (s : State) :
    storeStep n length c ea (s.awaiting q) = outcomeAwaiting q (storeStep n length c ea s) := by
  show orRefuse ((accessCheck s ea n).map _) _ = outcomeAwaiting q (orRefuse ((accessCheck s ea n).map _) _)
  cases accessCheck s ea n <;> rfl

theorem raiseInterrupt_awaiting (q : List (Option VectorNum)) (n : VectorNum) (ra : Addr) (s : State) :
    raiseInterrupt n ra (s.awaiting q) = outcomeAwaiting q (raiseInterrupt n ra s) := by
  unfold raiseInterrupt
  rw [memRead_awaiting]
  cases memRead s (vectorAddress n) .dword with
  | error r => rfl
  | ok v =>
    show Host.Outcome.next (State.enter ((s.present _).awaiting q) ra (v.setWidth 32)) = _
    unfold State.enter
    rw [State.writeReg_awaiting]; rfl

theorem multiplyStep_awaiting (q : List (Option VectorNum)) (fn1 : BitVec 3) (withCarryIn : Bool) (c a b : RegNum) (s : State)
    (m : BitVec s.opWidth) :
    multiplyStep fn1 withCarryIn c a b (s.awaiting q) m = outcomeAwaiting q (multiplyStep fn1 withCarryIn c a b s m) := by
  unfold multiplyStep
  show (if s.fpm then _ else _) = _
  simp only
  split
  · exact floatingStep_awaiting q _ c s _
  · unfold State.writeMulDiv
    rw [State.writeAlu_awaiting]; rfl

theorem divideStep_awaiting (q : List (Option VectorNum)) (fn1 : BitVec 3) (c a b : RegNum) (s : State)
    (stated : BitVec s.opWidth → BitVec s.opWidth → BitVec s.opWidth) :
    divideStep fn1 c a b (s.awaiting q) stated = outcomeAwaiting q (divideStep fn1 c a b s stated) := by
  unfold divideStep
  show (if s.fpm then _ else _) = _
  simp only
  split
  · exact floatingStep_awaiting q _ c s _
  · show (if divisionOpen (s.regOperand a) (s.regOperand b) = true ∧ s.cfg.divZero = .refuse then _ else _) = _
    split
    · rfl
    · unfold State.writeMulDiv
      rw [State.writeAlu_awaiting]; rfl

theorem condJump_awaiting (q : List (Option VectorNum)) (taken : Bool) (length : Addr) (c : RegNum) {n : Nat} (imm : BitVec n)
    (s : State) : condJump taken length c imm (s.awaiting q) = outcomeAwaiting q (condJump taken length c imm s) := by
  cases taken <;> rfl

theorem State.putStatus_awaiting (q : List (Option VectorNum)) (s : State) (b : StatusBit) (value : Bool) :
    (s.awaiting q).putStatus b value = (s.putStatus b value).awaiting q := by
  unfold State.putStatus
  show (if s.writable b then _ else _) = _
  split <;> rfl

/-- No instruction reads or writes the platform's answers. -/
theorem exec_awaiting (q : List (Option VectorNum)) (i : Instr) (s : State) :
    exec i (s.awaiting q) = outcomeAwaiting q (exec i s) := by
  cases i
  case add | adc | sub | sbc | and | or | xor | addi | adci | subi | sbci | andi | ori | xori | shr | asr | srn | ror | sln
    | addi64 | adci64 | subi64 | sbci64 | andi64 | ori64 | xori64 => exact aluStep_awaiting q _ _ _ s _ _ _
  case jmp | jmp64 | urt => rfl
  case jz | jc | js | jv | jnz | jnc | jns | jnv | jz64 | jc64 | js64 | jv64 | jnz64 | jnc64 | jns64 | jnv64 =>
    exact condJump_awaiting q _ _ _ _ s
  case stb | stw | std | stq | stb64 | stw64 | std64 | stq64 => exact storeStep_awaiting q _ _ _ _ s
  case ldb | ldw | ldd | ldq | ldb64 | ldw64 | ldd64 | ldq64 => exact loadStep_awaiting q _ _ _ _ s
  case mvu | mvu64 =>
    show Host.Outcome.next ((State.writeReg (s.awaiting q) _ _).advance _) = _
    rw [State.writeReg_awaiting]; rfl
  case int => exact raiseInterrupt_awaiting q _ _ s
  case ssb b | csb b =>
    show Host.Outcome.next ((State.putStatus (s.awaiting q) b _).advance _) = _
    rw [State.putStatus_awaiting]; rfl
  case mul | mlc => exact multiplyStep_awaiting q _ _ _ _ _ s _
  case div | mod => exact divideStep_awaiting q _ _ _ _ s _
  case itf | fti | sqr => exact floatingStep_awaiting q _ _ s _

end Sys2Proof.Machine
end

