-- ==== Sys2Proof/Tests/Slice0.lean ====
section
/-! SUPPORT. Tests: the WellFormed smoke, the decoding of every instruction's word, single steps whose expected results are
the spec's own examples, and for each statement with hypotheses states and operands that meet them. -/

namespace Sys2Proof.Tests

open Sys2Proof.Machine

/-- The next state of an outcome. -/
def after (o : Host.Outcome State Fault Refusal) : Option State :=
  match o with
  | .next t => some t
  | _ => none

/-- The reset state with registers written. -/
def withRegs (l : List (RegNum × QWord)) : State := l.foldl (fun s p => s.writeReg p.1 p.2) State.reset

/-- A register and Z, C, S, V after an instruction. -/
def result (i : Instr) (s : State) (r : RegNum) : Option (QWord × Bool × Bool × Bool × Bool) :=
  (after (exec i s)).map fun t => (t.readReg r, t.sr.z, t.sr.c, t.sr.s, t.sr.v)

/-- The reset state of the base processor with the spec's default parameters: a misaligned access is refused. -/
def base : State := { State.reset with cfg := Config.specDefault }

/-- A state of a processor with other parameters. -/
def withParameters (f : Config → Config) (s : State) : State := { s with cfg := f s.cfg }

/-- A state with a device at 0x2000 to 0x2007 and nothing at 0x3000 to 0x3FFF. -/
def withDevice (s : State) : State := withParameters (fun c => { c with memMap := [⟨0x2000, 8, .device⟩, ⟨0x3000, 0x1000, .nothing⟩] }) s

/-- A state with the carry flag set. -/
def withCarry (s : State) : State := { s with sr := { s.sr with c := true } }

/-- A state in 64-bit mode. -/
def wide (s : State) : State := { s with sr := { s.sr with qwm := true } }

/-- A state in user mode. -/
def user (s : State) : State := { s with sr := { s.sr with km := false } }

/-- A state at 0x1000 with a status register. -/
def flagged (r : StatusRegister) : State := { State.reset with pc := 0x1000, sr := r }

/-- A state with an interrupt request 3 presented and enabled. -/
def requested (s : State) : State := { s with sr := { s.sr with ie := true }, requests := [some 3] }

/-! WellFormed: an instruction of an absent extension is ill-formed, and its word is refused (R114). -/

theorem test_wf_refuses_quad : ¬ (Instr.stq 1 2 8).WellFormed { q := false, m := true, f := true } := by decide

theorem test_wf_refuses_wide : ¬ (Instr.jmp64 0 1).WellFormed { q := false, m := true, f := true } := by decide

theorem test_wf_refuses_mulDiv : ¬ (Instr.mul 3 1 2).WellFormed { q := true, m := false, f := true } := by decide

theorem test_wf_refuses_float : ¬ (Instr.sqr 3 1).WellFormed { q := true, m := true, f := false } := by decide

theorem test_decode_refuses_absent :
    decode { q := false, m := true, f := true } [0x40458008#32] = .error .absentExtension ∧
    decode { q := false, m := true, f := true } [0xA0000000#32, 1#32] = .error .absentExtension ∧
    decode { q := true, m := false, f := true } [0xB0C22000#32] = .error .absentExtension ∧
    decode { q := true, m := true, f := false } [0xB8C20400#32] = .error .absentExtension := by decide

/-- Words of R112, a long instruction cut short, and no word at all. -/
theorem test_decode_refuses_reserved :
    decode Extensions.all [0x18000000#32] = .error .unassignedOpcode ∧
    decode Extensions.all [0x00000E00#32] = .error .unassignedFunction ∧
    decode Extensions.all [0x74C00000#32] = .error .noSuchStatusBit ∧
    decode Extensions.all [0x8001C000#32, 0#32] = .error .unassignedFunction ∧
    decode Extensions.all [0x88000000#32] = .error .truncated ∧ decode Extensions.all [] = .error .truncated := by decide

/-! The word of every instruction: the examples printed in its rule (40_int.md to 49_ext_fp.md), the opcode table's numbering. -/

theorem test_words_alu :
    decodeTableWord 32 0x00C22000 = some (.add 3 1 2) ∧
    decodeTableWord 32 0x00C22200 = some (.adc 3 1 2) ∧
    decodeTableWord 32 0x00C22400 = some (.sub 3 1 2) ∧
    decodeTableWord 32 0x00C22600 = some (.sbc 3 1 2) ∧
    decodeTableWord 32 0x00C22800 = some (.and 3 1 2) ∧
    decodeTableWord 32 0x00C22A00 = some (.or 3 1 2) ∧
    decodeTableWord 32 0x00C22C00 = some (.xor 3 1 2) := by decide

theorem test_words_aluImmediate :
    decodeTableWord 32 0x08C20005 = some (.addi 3 1 5) ∧
    decodeTableWord 32 0x08C24005 = some (.adci 3 1 5) ∧
    decodeTableWord 32 0x08C28005 = some (.subi 3 1 5) ∧
    decodeTableWord 32 0x08C2C005 = some (.sbci 3 1 5) ∧
    decodeTableWord 32 0x08C300FF = some (.andi 3 1 0xFF) ∧
    decodeTableWord 32 0x08C34078 = some (.ori 3 1 0x78) ∧
    decodeTableWord 32 0x08C3800F = some (.xori 3 1 0x0F) := by decide

theorem test_words_shifts :
    decodeTableWord 32 0x10C20000 = some (.shr 3 1) ∧
    decodeTableWord 32 0x10C24000 = some (.asr 3 1) ∧
    decodeTableWord 32 0x10C28000 = some (.srn 3 1) ∧
    decodeTableWord 32 0x10C2C000 = some (.ror 3 1) ∧
    decodeTableWord 32 0x10C30000 = some (.sln 3 1) := by decide

theorem test_words_jumps :
    decodeTableWord 32 0x20007FFC = some (.jmp 0 0x7FFC) ∧
    decodeTableWord 32 0x30001010 = some (.jz 0 0x1010) ∧
    decodeTableWord 32 0x30081010 = some (.jc 0 0x1010) ∧
    decodeTableWord 32 0x30101010 = some (.js 0 0x1010) ∧
    decodeTableWord 32 0x30181010 = some (.jv 0 0x1010) ∧
    decodeTableWord 32 0x30201008 = some (.jnz 0 0x1008) ∧
    decodeTableWord 32 0x30281010 = some (.jnc 0 0x1010) ∧
    decodeTableWord 32 0x30301010 = some (.jns 0 0x1010) ∧
    decodeTableWord 32 0x30381010 = some (.jnv 0 0x1010) := by decide

theorem test_words_loadsStores :
    decodeTableWord 32 0x40440003 = some (.stb 1 2 3) ∧
    decodeTableWord 32 0x40448002 = some (.stw 1 2 2) ∧
    decodeTableWord 32 0x407D0000 = some (.std 1 30 0) ∧
    decodeTableWord 32 0x40458008 = some (.stq 1 2 8) ∧
    decodeTableWord 32 0x48C40003 = some (.ldb 3 2 3) ∧
    decodeTableWord 32 0x48C48002 = some (.ldw 3 2 2) ∧
    decodeTableWord 32 0x493D0000 = some (.ldd 4 30 0) ∧
    decodeTableWord 32 0x48C58008 = some (.ldq 3 2 8) := by decide

theorem test_words_system :
    decodeTableWord 32 0x50448D15 = some (.mvu 1 0x048D15) ∧
    decodeTableWord 32 0x58000000 = some (.int 0) ∧
    decodeTableWord 32 0x5F800000 = some (.int 15) ∧
    decodeTableWord 32 0x72400000 = some (.ssb .ie) ∧
    decodeTableWord 32 0x74400000 = some (.ssb .fpm) ∧
    decodeTableWord 32 0x70800000 = some (.csb .c) ∧
    decodeTableWord 32 0x70000000 = some (.csb .z) ∧
    decodeTableWord 32 0x78000000 = some (.urt) := by decide

theorem test_words_aluLong :
    decodeTableWord 64 0x80C200123456789A = some (.addi64 3 1 0x123456789A) ∧
    decodeTableWord 64 0x80C240123456789A = some (.adci64 3 1 0x123456789A) ∧
    decodeTableWord 64 0x80C280123456789A = some (.subi64 3 1 0x123456789A) ∧
    decodeTableWord 64 0x80C2C0123456789A = some (.sbci64 3 1 0x123456789A) ∧
    decodeTableWord 64 0x80C300123456789A = some (.andi64 3 1 0x123456789A) ∧
    decodeTableWord 64 0x80C340123456789A = some (.ori64 3 1 0x123456789A) ∧
    decodeTableWord 64 0x80C380123456789A = some (.xori64 3 1 0x123456789A) := by decide

theorem test_words_loadsStoresLong :
    decodeTableWord 64 0x884048D159E26AF3 = some (.mvu64 1 0x48D159E26AF3) ∧
    decodeTableWord 64 0x90C4000000010000 = some (.ldb64 3 2 0x10000) ∧
    decodeTableWord 64 0x90C4800000010000 = some (.ldw64 3 2 0x10000) ∧
    decodeTableWord 64 0x90C5000000010000 = some (.ldd64 3 2 0x10000) ∧
    decodeTableWord 64 0x90C5800000010000 = some (.ldq64 3 2 0x10000) ∧
    decodeTableWord 64 0x9844000000010000 = some (.stb64 1 2 0x10000) ∧
    decodeTableWord 64 0x9844800000010000 = some (.stw64 1 2 0x10000) ∧
    decodeTableWord 64 0x9845000000010000 = some (.std64 1 2 0x10000) ∧
    decodeTableWord 64 0x9845800000010000 = some (.stq64 1 2 0x10000) := by decide

theorem test_words_jumpsLong :
    decodeTableWord 64 0xA7FFFFFFFFFFFFF8 = some (.jmp64 31 0x3FFFFFFFFFFFF8) ∧
    decodeTableWord 64 0xA800000000100000 = some (.jz64 0 0x100000) ∧
    decodeTableWord 64 0xA808000000100000 = some (.jc64 0 0x100000) ∧
    decodeTableWord 64 0xA810000000100000 = some (.js64 0 0x100000) ∧
    decodeTableWord 64 0xA818000000100000 = some (.jv64 0 0x100000) ∧
    decodeTableWord 64 0xAFE7FFFFFFFFFFF0 = some (.jnz64 31 0x7FFFFFFFFFFF0) ∧
    decodeTableWord 64 0xA828000000100000 = some (.jnc64 0 0x100000) ∧
    decodeTableWord 64 0xA830000000100000 = some (.jns64 0 0x100000) ∧
    decodeTableWord 64 0xA838000000100000 = some (.jnv64 0 0x100000) := by decide

theorem test_words_extensions :
    decodeTableWord 32 0xB0C22000 = some (.mul 3 1 2) ∧
    decodeTableWord 32 0xB0C22200 = some (.mlc 3 1 2) ∧
    decodeTableWord 32 0xB0C22400 = some (.div 3 1 2) ∧
    decodeTableWord 32 0xB0C22800 = some (.mod 3 1 2) ∧
    decodeTableWord 32 0xB8C20000 = some (.itf 3 1) ∧
    decodeTableWord 32 0xB8C20200 = some (.fti 3 1) ∧
    decodeTableWord 32 0xB8C20400 = some (.sqr 3 1) := by decide

/-! One word of each format written bit by bit, field after field, every field at a value of its own (R94 to R103). -/

theorem test_bits_format1 :
    decode Extensions.all [(0b01011#5 ++ 0b1010#4 ++ 0b00000000000000000000000#23 : DWord)]
      = .ok (.int 10) := by decide

theorem test_bits_format2 :
    decode Extensions.all [(0b01010#5 ++ 0b10001#5 ++ 0b0000000000000000000011#22 : DWord)]
      = .ok (.mvu 17 3) := by decide

theorem test_bits_format3 :
    decode Extensions.all [(0b01000#5 ++ 0b10000#5 ++ 0b01000#5 ++ 0b10#2 ++ 0b000000000000101#15 : DWord)]
      = .ok (.std 16 8 5) := by decide

theorem test_bits_format4 :
    decode Extensions.all [(0b00110#5 ++ 0b00011#5 ++ 0b101#3 ++ 0b1000000000000000001#19 : DWord)]
      = .ok (.jnc 3 0x40001) := by decide

theorem test_bits_format5 :
    decode Extensions.all [(0b00000#5 ++ 0b00100#5 ++ 0b00010#5 ++ 0b00001#5 ++ 0b011#3 ++ 0b000000000#9 : DWord)]
      = .ok (.sbc 4 2 1) := by decide

theorem test_bits_format6 :
    decode Extensions.all [(0b00001#5 ++ 0b11110#5 ++ 0b11101#5 ++ 0b110#3 ++ 0b10000000000001#14 : DWord)]
      = .ok (.xori 30 29 0x2001) := by decide

theorem test_bits_format7 :
    decode Extensions.all [(0b00010#5 ++ 0b00111#5 ++ 0b01110#5 ++ 0b011#3 ++ 0b00000000000000#14 : DWord)]
      = .ok (.ror 7 14) := by decide

theorem test_bits_format8 :
    decode Extensions.all [(0b01111#5 ++ 0b000000000000000000000000000#27 : DWord)]
      = .ok (.urt) := by decide

theorem test_bits_format9 :
    decode Extensions.all [(0b01110#5 ++ 0b0110#4 ++ 0b1#1 ++ 0b0000000000000000000000#22 : DWord)]
      = .ok (.ssb .qwm) := by decide

theorem test_bits_format10 :
    decode Extensions.all (Code.long
      (0b10100#5 ++ 0b00101#5 ++ 0b100000000000000000000000000000000000000000000000000001#54)).words
      = .ok (.jmp64 5 0x20000000000001) := by decide

theorem test_bits_format11 :
    decode Extensions.all (Code.long
      (0b10011#5 ++ 0b00110#5 ++ 0b01001#5 ++ 0b11#2 ++ 0b10000000000000000000000000000000000000000000001#47)).words
      = .ok (.stq64 6 9 0x400000000001) := by decide

theorem test_bits_format12 :
    decode Extensions.all (Code.long
      (0b10101#5 ++ 0b01010#5 ++ 0b110#3 ++ 0b100000000000000000000000000000000000000000000000001#51)).words
      = .ok (.jns64 10 0x4000000000001) := by decide

theorem test_bits_format13 :
    decode Extensions.all (Code.long
      (0b10000#5 ++ 0b01011#5 ++ 0b10100#5 ++ 0b010#3 ++ 0b1000000000000000000000000000000000000000000001#46)).words
      = .ok (.subi64 11 20 0x200000000001) := by decide

/-! Single steps; the expected results are the examples and corner cases of the instructions' rules. -/

theorem test_add_wraps :
    result (.add 3 1 2) (withRegs [(1, 0xFFFFFFFF), (2, 1)]) 3 = some (0#64, true, true, false, false) := by decide

theorem test_add_overflows :
    result (.add 1 1 2) (withRegs [(1, 0x7FFFFFFF), (2, 1)]) 1 = some (0x80000000#64, false, false, true, true) := by decide

theorem test_adc_three_terms :
    result (.adc 3 1 2) (withCarry (withRegs [(1, 0xFFFFFFFF), (2, 0xFFFFFFFF)])) 3 = some (0xFFFFFFFF#64, false, true, true, false) :=
  by decide

theorem test_sub_borrows :
    result (.sub 3 1 2) (withRegs [(1, 5), (2, 7)]) 3 = some (0xFFFFFFFE#64, false, true, true, false) := by decide

theorem test_sub_overflows :
    result (.sub 3 1 2) (withRegs [(1, 0x80000000), (2, 1)]) 3 = some (0x7FFFFFFF#64, false, false, false, true) := by decide

theorem test_sbc_borrow_in :
    result (.sbc 3 1 2) (withCarry (withRegs [(1, 0), (2, 0xFFFFFFFF)])) 3 = some (0#64, true, true, false, false) :=
  by decide

theorem test_and :
    result (.and 3 1 2) (withRegs [(1, 0xF0F0F0F0), (2, 0x0FF00FF0)]) 3 = some (0x00F000F0#64, false, false, false, false) :=
  by decide

theorem test_or :
    result (.or 3 1 2) (withRegs [(1, 0xF0F0F0F0), (2, 0x0FF00FF0)]) 3 = some (0xFFF0FFF0#64, false, false, true, false) :=
  by decide

theorem test_xor :
    result (.xor 3 1 2) (withRegs [(1, 0xF0F0F0F0), (2, 0x0FF00FF0)]) 3 = some (0xFF00FF00#64, false, false, true, false) :=
  by decide

theorem test_addi : result (.addi 3 1 5) (withRegs [(1, 0xFFFFFFFF)]) 3 = some (4#64, false, true, false, false) := by decide

theorem test_adci :
    result (.adci 3 1 5) (withCarry (withRegs [(1, 10)])) 3 = some (16#64, false, false, false, false) := by decide

theorem test_subi : result (.subi 3 1 5) (withRegs [(1, 3)]) 3 = some (0xFFFFFFFE#64, false, true, true, false) := by decide

theorem test_sbci :
    result (.sbci 3 1 5) (withCarry (withRegs [(1, 10)])) 3 = some (4#64, false, false, false, false) := by decide

theorem test_andi_zero_extends :
    result (.andi 3 1 0x3FFF) (withRegs [(1, 0xFFFFFFFF)]) 3 = some (0x3FFF#64, false, false, false, false) := by decide

theorem test_ori :
    result (.ori 3 1 0x78) (withRegs [(1, 0x12345600)]) 3 = some (0x12345678#64, false, false, false, false) := by decide

theorem test_xori :
    result (.xori 3 1 0x0F) (withRegs [(1, 0xFF)]) 3 = some (0xF0#64, false, false, false, false) := by decide

theorem test_shr :
    result (.shr 3 1) (withRegs [(1, 0x80000003)]) 3 = some (0x40000001#64, false, true, false, false) := by decide

theorem test_asr :
    result (.asr 3 1) (withRegs [(1, 0x80000003)]) 3 = some (0xC0000001#64, false, true, true, false) := by decide

theorem test_srn :
    result (.srn 3 1) (withRegs [(1, 0x8000003C)]) 3 = some (0x08000003#64, false, true, false, false) := by decide

theorem test_ror_carry_enters :
    result (.ror 3 1) (withCarry (withRegs [(1, 0)])) 3 = some (0x80000000#64, false, false, true, false) := by decide

theorem test_sln :
    result (.sln 3 1) (withRegs [(1, 0x12345678)]) 3 = some (0x23456780#64, false, true, false, false) := by decide

theorem test_flags_without_register :
    result (.sub 0 1 2) (withRegs [(1, 5), (2, 5)]) 0 = some (0#64, true, false, false, false) := by decide

theorem test_addi64_wide :
    result (.addi64 3 1 0x123456789A) (wide (withRegs [(1, 0xFFFFFFFFFFFFFFFF)])) 3 = some (0x1234567899#64, false, true, false, false) :=
  by decide

theorem test_addi64_narrow :
    result (.addi64 3 1 0x123456789A) (withRegs [(1, 0xFFFFFFFFFFFFFFFF)]) 3 = some (0x34567899#64, false, true, false, false) :=
  by decide

theorem test_adci64 :
    result (.adci64 3 1 0x123456789A) (withCarry (wide (withRegs [(1, 1)]))) 3 = some (0x123456789C#64, false, false, false, false) :=
  by decide

theorem test_subi64 :
    result (.subi64 3 1 0x123456789A) (wide (withRegs [(1, 0)])) 3 = some (0xFFFFFFEDCBA98766#64, false, true, true, false) :=
  by decide

theorem test_sbci64 :
    result (.sbci64 3 1 0x123456789A) (withCarry (wide (withRegs [(1, 0x123456789B)]))) 3 = some (0#64, true, false, false, false) :=
  by decide

theorem test_andi64 :
    result (.andi64 3 1 0x123456789A) (wide (withRegs [(1, 0xFFFFFFFFFFFFFFFF)])) 3 = some (0x123456789A#64, false, false, false, false) :=
  by decide

theorem test_ori64 :
    result (.ori64 3 1 0x123456789A) (wide (withRegs [(1, 0x8000000000000000)])) 3 = some (0x800000123456789A#64, false, false, true, false) :=
  by decide

theorem test_xori64 :
    result (.xori64 3 1 0x123456789A) (wide (withRegs [(1, 0x123456789A)])) 3 = some (0#64, true, false, false, false) :=
  by decide

theorem test_mvu :
    result (.mvu 1 0x048D15) (withRegs [(1, 0xFFFFFFFFFFFFFFFF)]) 1 = some (0x12345400#64, false, false, false, false) :=
  by decide

theorem test_mvu64 :
    result (.mvu64 1 0x48D159E26AF3) (withRegs []) 1 = some (0x0123456789ABCC00#64, false, false, false, false) := by decide

theorem test_stb :
    (after (exec (.stb 1 2 3) (withRegs [(1, 0x12345678), (2, 0x2000)]))).map (fun t => t.mem)
      = some [(0x2003, 0x78)] := by decide

theorem test_stw :
    (after (exec (.stw 1 2 2) (withRegs [(1, 0x12345678), (2, 0x2000)]))).map (fun t => t.mem)
      = some [(0x2002, 0x78), (0x2003, 0x56)] := by decide

theorem test_std_wraps :
    (after (exec (.std 1 2 3) (withRegs [(1, 0x12345678), (2, 0xFFFFFFFB)]))).map (fun t => t.mem)
      = some [(0, 0x34), (1, 0x12), (0xFFFFFFFE, 0x78), (0xFFFFFFFF, 0x56)] := by decide

theorem test_stq :
    (after (exec (.stq 1 2 8) (withRegs [(1, 0x1122334455667788), (2, 0x3000)]))).map (fun t => t.mem)
      = some [(0x3008, 0x88), (0x3009, 0x77), (0x300A, 0x66), (0x300B, 0x55), (0x300C, 0x44), (0x300D, 0x33), (0x300E, 0x22),
      (0x300F, 0x11)] := by decide

theorem test_stb64 :
    (after (exec (.stb64 1 2 0x10000) (withRegs [(1, 0x1234), (2, 0x2000)]))).map (fun t => t.mem)
      = some [(0x12000, 0x34)] := by decide

theorem test_stw64 :
    (after (exec (.stw64 1 2 0x10000) (withRegs [(1, 0x1234), (2, 0x2000)]))).map (fun t => t.mem)
      = some [(0x12000, 0x34), (0x12001, 0x12)] := by decide

theorem test_std64 :
    (after (exec (.std64 1 2 0x10000) (withRegs [(1, 0x12345678), (2, 0x2000)]))).map (fun t => t.mem)
      = some [(0x12000, 0x78), (0x12001, 0x56), (0x12002, 0x34), (0x12003, 0x12)] := by decide

theorem test_stq64 :
    (after (exec (.stq64 1 2 0x10000) (withRegs [(1, 0xFF00000000000001), (2, 0x2000)]))).map (fun t => t.mem)
      = some [(0x12000, 1), (0x12007, 0xFF)] := by decide

theorem test_ldb_zero_extends :
    (after (exec (.ldb 3 2 3) { withRegs [(2, 0x2000), (3, 0xFFFFFFFFFFFFFFFF)] with mem := [(0x2003, 0xF8)] })).map (fun t => t.readReg 3)
      = some 0xF8#64 :=
  by decide

theorem test_ldw :
    (after (exec (.ldw 3 2 2) { withRegs [(2, 0x2000)] with mem := [(0x2002, 0x78), (0x2003, 0xF6)] })).map (fun t => t.readReg 3)
      = some 0xF678#64 :=
  by decide

theorem test_ldd :
    (after (exec (.ldd 4 30 0) { withRegs [(30, 0x8000)] with mem := [(0x8000, 0x78), (0x8001, 0x56), (0x8002, 0x34), (0x8003, 0x12)] })).map (fun t => t.readReg 4)
      = some 0x12345678#64 :=
  by decide

theorem test_ldq :
    (after (exec (.ldq 3 2 8) { withRegs [(2, 0x3000)] with mem := [(0x3008, 0x88), (0x300F, 0x11)] })).map (fun t => t.readReg 3)
      = some 0x1100000000000088#64 :=
  by decide

theorem test_ldb64 :
    (after (exec (.ldb64 3 2 0x10000) { withRegs [(2, 0x2000)] with mem := [(0x12000, 0xAB)] })).map (fun t => (t.readReg 3, t.pc))
      = some (0xAB#64, 8#32) :=
  by decide

theorem test_ldw64 :
    (after (exec (.ldw64 3 2 0x10000) { withRegs [(2, 0x2000)] with mem := [(0x12001, 0xAB)] })).map (fun t => t.readReg 3)
      = some 0xAB00#64 := by decide

theorem test_ldd64 :
    (after (exec (.ldd64 3 2 0x10000) { withRegs [(2, 0x2000)] with mem := [(0x12003, 0xAB)] })).map (fun t => t.readReg 3)
      = some 0xAB000000#64 := by decide

theorem test_ldq64 :
    (after (exec (.ldq64 3 2 0x10000) { withRegs [(2, 0x2000)] with mem := [(0x12007, 0xAB)] })).map (fun t => t.readReg 3)
      = some 0xAB00000000000000#64 := by decide

theorem test_std_big_endian :
    (after (exec (.std 1 0 0) { withRegs [(1, 0x12345678)] with cfg := { Config.atReset with endian := .big } })).map (fun t => t.mem)
      = some [(0, 0x12), (1, 0x34), (2, 0x56), (3, 0x78)] :=
  by decide

theorem test_jmp_negative :
    (after (exec (.jmp 0 0x7FFC) (withRegs []))).map (fun t => t.pc)
      = some 0xFFFFFFFC#32 := by decide

theorem test_jmp64_epc_relative :
    (after (exec (.jmp64 31 0x3FFFFFFFFFFFF8) { State.reset with pc := 0x1010 })).map (fun t => t.pc)
      = some 0x1008#32 := by decide

theorem test_jz :
    (after (exec (.jz 0 0x1010) (flagged { State.reset.sr with z := true }))).map (fun t => t.pc)
      = some 0x1010#32 := by decide

theorem test_jz64 :
    (after (exec (.jz64 0 0x100000) (flagged { State.reset.sr with z := true }))).map (fun t => t.pc)
      = some 0x100000#32 := by decide

theorem test_jc :
    (after (exec (.jc 0 0x1010) (flagged { State.reset.sr with c := true }))).map (fun t => t.pc)
      = some 0x1010#32 := by decide

theorem test_jc64 :
    (after (exec (.jc64 0 0x100000) (flagged { State.reset.sr with c := true }))).map (fun t => t.pc)
      = some 0x100000#32 := by decide

theorem test_js :
    (after (exec (.js 0 0x1010) (flagged { State.reset.sr with s := true }))).map (fun t => t.pc)
      = some 0x1010#32 := by decide

theorem test_js64 :
    (after (exec (.js64 0 0x100000) (flagged { State.reset.sr with s := true }))).map (fun t => t.pc)
      = some 0x100000#32 := by decide

theorem test_jv :
    (after (exec (.jv 0 0x1010) (flagged { State.reset.sr with v := true }))).map (fun t => t.pc)
      = some 0x1010#32 := by decide

theorem test_jv64 :
    (after (exec (.jv64 0 0x100000) (flagged { State.reset.sr with v := true }))).map (fun t => t.pc)
      = some 0x100000#32 := by decide

theorem test_jnz :
    (after (exec (.jnz 0 0x1010) (flagged { State.reset.sr with z := true }))).map (fun t => t.pc)
      = some 0x1004#32 := by decide

theorem test_jnz64 :
    (after (exec (.jnz64 0 0x100000) (flagged { State.reset.sr with z := true }))).map (fun t => t.pc)
      = some 0x1008#32 := by decide

theorem test_jnc :
    (after (exec (.jnc 0 0x1010) (flagged { State.reset.sr with c := true }))).map (fun t => t.pc)
      = some 0x1004#32 := by decide

theorem test_jnc64 :
    (after (exec (.jnc64 0 0x100000) (flagged { State.reset.sr with c := true }))).map (fun t => t.pc)
      = some 0x1008#32 := by decide

theorem test_jns :
    (after (exec (.jns 0 0x1010) (flagged { State.reset.sr with s := true }))).map (fun t => t.pc)
      = some 0x1004#32 := by decide

theorem test_jns64 :
    (after (exec (.jns64 0 0x100000) (flagged { State.reset.sr with s := true }))).map (fun t => t.pc)
      = some 0x1008#32 := by decide

theorem test_jnv :
    (after (exec (.jnv 0 0x1010) (flagged { State.reset.sr with v := true }))).map (fun t => t.pc)
      = some 0x1004#32 := by decide

theorem test_jnv64 :
    (after (exec (.jnv64 0 0x100000) (flagged { State.reset.sr with v := true }))).map (fun t => t.pc)
      = some 0x1008#32 := by decide

theorem test_int :
    (after (exec (.int 0) { user State.reset with pc := 0x1000, mem := [(1, 0x20)] })).map (fun t => (t.readReg 24, t.sr.km, t.pc))
      = some (0x1004#64, true, 0x2000#32) :=
  by decide

theorem test_urt :
    (after (exec (.urt) (withRegs [(24, 0x1004)]))).map (fun t => (t.pc, t.sr.km))
      = some (0x1004#32, false) := by decide

theorem test_ssb_user_ie_is_silent :
    (after (exec (.ssb .ie) (user State.reset))).map (fun t => (t.sr.ie, t.pc))
      = some (false, 4#32) := by decide

theorem test_ssb_kernel_ie :
    (after (exec (.ssb .ie) State.reset)).map (fun t => (t.sr.ie, t.readReg 25))
      = some (true, 0x90#64) := by decide

theorem test_csb_carry :
    (after (exec (.csb .c) (withCarry (user State.reset)))).map (fun t => t.sr.c)
      = some false := by decide

theorem test_csb_km_is_silent : (after (exec (.csb .km) State.reset)).map (fun t => t.sr.km)
      = some true := by decide

theorem test_mul_high_half :
    (after (exec (.mul 3 1 2) (withRegs [(1, 0x80000000), (2, 0x80000000)]))).map (fun t => (t.readReg 3, t.mc, t.sr.z, t.sr.s))
      = some (0#64, 0x40000000#64, true, false) :=
  by decide

theorem test_mlc_negative_carry :
    (after (exec (.mlc 3 1 2) { State.reset with mc := 0xFFFFFFFF })).map (fun t => (t.readReg 3, t.mc, t.sr.z, t.sr.s))
      = some (0xFFFFFFFF#64, 0xFFFFFFFF#64, false, true) := by decide

/-- The other choices of MulCarryOut (R283): the unsigned high half of 0xFFFFFFFF * 2, and MC written by MLC only. -/
theorem test_mul_carry_choices :
    (after (exec (.mul 3 1 2) (withParameters (fun c => { c with mulCarry := .unsignedHigh })
      (withRegs [(1, 0xFFFFFFFF), (2, 2)])))).map (fun t => (t.readReg 3, t.mc)) = some (0xFFFFFFFE#64, 1#64) ∧
    (after (exec (.mul 3 1 2) (withParameters (fun c => { c with mulCarry := .mlcOnly })
      { withRegs [(1, 0xFFFFFFFF), (2, 2)] with mc := 5 }))).map (fun t => (t.readReg 3, t.mc)) = some (0xFFFFFFFE#64, 5#64) := by
  decide

theorem test_div_rounds_to_zero :
    (after (exec (.div 3 1 2) (withRegs [(1, 0xFFFFFFF9), (2, 2)]))).map (fun t => (t.readReg 3, t.sr.z, t.sr.s))
      = some (0xFFFFFFFD#64, false, true) := by decide

theorem test_mod_sign_of_dividend :
    (after (exec (.mod 3 1 2) (withRegs [(1, 0xFFFFFFF9), (2, 2)]))).map (fun t => (t.readReg 3, t.sr.z, t.sr.s))
      = some (0xFFFFFFFF#64, false, true) := by decide

theorem test_itf_advances :
    (after (exec (.itf 3 1) (withRegs []))).map (fun t => (t.pc, t.mc))
      = some (4#32, 0#64) := by decide

theorem test_fti_keeps_source :
    (after (exec (.fti 3 1) (withRegs [(1, 7)]))).map (fun t => t.readReg 1)
      = some 7#64 := by decide

theorem test_sqr_discards_into_e0x :
    (after (exec (.sqr 0 1) (withRegs [(1, 4)]))).map (fun t => t.readReg 0)
      = some 0#64 := by decide

/-- The refusals of the default parameters (R286, R295). -/
theorem test_refused_defaults :
    exec (.div 3 1 0) base = .refused .divisionResultNotSpecified ∧ exec (.sqr 3 1) base = .refused .floatingPointNotSpecified :=
  ⟨rfl, rfl⟩

/-- `LDQ ECX, EBX, 4` with EBX = 0x12000 (96_test_vectors_extensions.md), and the same where 4 is enough (R68). -/
theorem test_quadAlignment :
    let s := withParameters (fun c => { c with misaligned := .refuse }) (withRegs [(2, 0x12000)])
    exec (.ldq 3 2 4) s = .refused .misalignedAccess ∧
    (after (exec (.ldq 3 2 4) (withParameters (fun c => { c with quadAlignment := .four }) s))).map (fun t => t.pc) = some 4#32 :=
  ⟨rfl, by decide⟩

/-- A store and a load whose value is discarded reach the device once each, and memory keeps nothing of the store (R70, R71). -/
theorem test_device :
    (after (exec (.std 1 0 0x2000) (withDevice (withRegs [(1, 0x11223344)])))).map (fun t => (t.mem, t.presented))
      = some ([], [.write 0x2000 [0x44, 0x33, 0x22, 0x11]]) ∧
    (after (exec (.ldb 0 0 0x2007) (withDevice State.reset))).map (fun t => t.presented) = some [.read 0x2007 1] := by decide

/-- Eight bytes at 0x1FFC: the half in memory is stored, the half at the device presented (R69). -/
theorem test_device_half :
    (after (exec (.stq 1 0 0x1FFC) (withDevice (withRegs [(1, 0x1122334455667788)])))).map (fun t => (t.mem, t.presented))
      = some ([(0x1FFC, 0x88), (0x1FFD, 0x77), (0x1FFE, 0x66), (0x1FFF, 0x55)], [.write 0x2000 [0x44, 0x33, 0x22, 0x11]]) := by
  decide

theorem test_refused_misaligned : exec (.ldd 3 0 2) base = .refused .misalignedAccess := rfl

theorem test_step_takes_interrupt :
    (after (step { requested State.reset with pc := 0x1000, mem := [(13, 0x20)] })).map
      (fun t => (t.pc, t.readReg 24, t.sr.ie, t.requests)) = some (0x2000#32, 0x1000#64, true, []) := by decide

/-- The second word of a long instruction at 0xFFFFFFFC lies at 0 (R32, R64). -/
theorem test_step_fetches_two_words :
    (after (step ({ State.reset with pc := 0xFFFFFFFC }.withFetchWord 64 0xA000000012345678))).map (fun t => t.pc)
      = some 0x12345678#32 := by decide

/-! States and operands that meet the hypotheses of the statements; where a statement has clauses, one for each, at a boundary. -/

theorem witness_DecodeOfEncode :
    (Instr.add 31 0 31).WellFormed Extensions.none ∧ (Instr.stq64 31 0 0x7FFFFFFFFFFF).WellFormed Extensions.all := by decide

theorem witness_DecodedWordSelectsItsRow :
    decode Extensions.all [0x80C20012#32, 0x3456789A#32] = .ok (.addi64 3 1 0x123456789A) ∧
    decode Extensions.none [0x00C22000#32, 0#32] = .ok (.add 3 1 2) := by decide

/-- An ADD with its unused bits set, and a JMP with its A and FN 1 fields set. -/
theorem witness_UnusedBitsAreIgnored :
    0x00C22000#32 &&& usedBits (opcodeOf 0x00C22000#32) = 0x00C221FF#32 &&& usedBits (opcodeOf 0x00C22000#32) ∧
    0x26000000#32 &&& usedBits (opcodeOf 0x26000000#32) = 0x263F8000#32 &&& usedBits (opcodeOf 0x26000000#32) := by decide

theorem witness_StepRunsTheDecodedInstruction :
    let s := State.reset.withFetchWord 64 0x80C200123456789A
    consult s = (none, s) ∧ fetchAllowed s s.pc ∧
      decode s.cfg.ext [wordAt s s.pc, wordAt s (s.pc + 4#32)] = .ok (.addi64 3 1 0x123456789A) :=
  by unfold fetchAllowed; decide

/-- The same with IE = 1 and the answer none. -/
theorem witness_StepRunsTheDecodedInstruction_enabled :
    let t := State.reset.withFetchWord 32 0x00C22000
    let u := { t with sr := { t.sr with ie := true } }
    consult { u with requests := [none] } = (none, u) ∧ fetchAllowed u u.pc ∧
      decode u.cfg.ext [wordAt u u.pc, wordAt u (u.pc + 4#32)] = .ok (.add 3 1 2) := by unfold fetchAllowed; decide

theorem witness_StoredInstructionRuns :
    (Instr.add 3 1 2).WellFormed base.cfg.ext ∧ fetchAllowed base base.pc ∧ base.sr.ie = false ∧ inMemory base base.pc 4 :=
  by unfold fetchAllowed inMemory; decide

theorem witness_StoredInstructionRuns_bytewise :
    let s := { State.reset with pc := 0xFFFFFFFD }
    (Instr.jmp64 3 1).WellFormed s.cfg.ext ∧ fetchAllowed s s.pc ∧ s.sr.ie = false ∧ inMemory s s.pc 8 :=
  by unfold fetchAllowed inMemory; decide

theorem witness_StepRefusesReservedEncoding :
    let s := State.reset.withFetchWord 32 0x18000000
    s.sr.ie = false ∧ fetchAllowed s s.pc ∧ reservedOn s.cfg.ext (wordAt s s.pc) := ⟨rfl, ⟨rfl, .inl rfl⟩, .inl (by decide)⟩

theorem witness_MisalignedFetchIsRefused :
    let s := { base with pc := 2 }
    (consult s).1 = none ∧ s.sr.vm = false ∧ s.cfg.misaligned = .refuse ∧ s.pc.toNat % 4 ≠ 0 := by decide

theorem witness_VirtualMemoryRefusesEveryStep :
    { State.reset with sr := { State.reset.sr with vm := true } }.sr.vm = true := by decide

theorem witness_HardwareInterruptIsTaken :
    (requested (user State.reset)).sr.ie = true ∧ (requested (user State.reset)).sr.vm = false ∧
    (requested (user State.reset)).requests = some 3 :: [] := by decide

theorem witness_MaskedRequestsHaveNoInfluence :
    let s := { State.reset with requests := [some 15] }
    s.sr.ie = false ∧ ∃ t, step s = .next t := ⟨rfl, _, rfl⟩

theorem witness_MaskedRequestsHaveNoInfluence_refused :
    let s := State.reset.withFetchWord 32 0x18000000
    s.sr.ie = false ∧ ∃ r, step s = .refused r := ⟨rfl, _, rfl⟩

/-- The branches of `MemReadValue` and `MemWriteBytes` with VM = 0: an allowed and a misaligned access. -/
theorem witness_MemRead :
    base.sr.vm = false ∧ (8 % requiredAlignment base .qword = 0 ∧ memRead base 8 .qword = .ok 0) ∧
    (4 % requiredAlignment base .qword ≠ 0 ∧ base.cfg.misaligned = .refuse ∧ memRead base 4 .qword = .error .misalignedAccess) ∧
    (2 % requiredAlignment base .dword ≠ 0 ∧ memRead base 2 .dword = .error .misalignedAccess) := by decide

/-- For `MixedWidthAccess`, `LoadAfterStore` and `StoreIsSeenByTheFetch`, little-endian, at the last double-word of the space. -/
theorem witness_completedStore :
    inMemory base 0xFFFFFFFC 4 ∧ ∃ t, memWrite base 0xFFFFFFFC .dword 0x11223344 = .ok t :=
  ⟨by unfold inMemory; decide, _, rfl⟩

/-- In memory between a device and an unpopulated hole. -/
theorem witness_completedStore_beside :
    inMemory (withDevice base) 0x2FFC 4 ∧ ¬ inMemory (withDevice base) 0x2FFD 4 ∧
    ∃ t, memWrite (withDevice base) 0x2FFC .dword 0x11223344 = .ok t := ⟨by unfold inMemory; decide, by unfold inMemory; decide, _, rfl⟩

theorem witness_completedStore_big :
    ∃ t, memWrite { base with cfg := { base.cfg with endian := .big } } 0 .dword 0x11223344 = .ok t := ⟨_, rfl⟩

/-- The writable registers beside ESR. -/
theorem witness_RegisterRead :
    (24#5 ≠ 0#5 ∧ 24#5 ≠ 25#5 ∧ 24#5 ≠ 31#5) ∧ (26#5 ≠ 0#5 ∧ 26#5 ≠ 25#5 ∧ 26#5 ≠ 31#5) ∧
    (withRegs [(24, 7), (26, 8)]).readReg 24 = 7#64 ∧ (withRegs [(24, 7), (26, 8)]).readReg 26 = 8#64 := by decide

theorem witness_WritesToReadOnlyRegistersAreDiscarded :
    (25#5 = 0#5 ∨ 25#5 = 25#5 ∨ 25#5 = 31#5) ∧ accessAllowed base (base.effectiveAddress 0 (8 : BitVec 15)) .dword :=
  by unfold accessAllowed; decide

theorem witness_StatusRegisterWriters :
    (∃ t, exec (.add 3 1 2) State.reset = .next t ∧ t.sr ≠ State.reset.sr) ∧
    (∃ t, exec (.ssb .ie) State.reset = .next t ∧ t.sr ≠ State.reset.sr) ∧
    (∃ t, exec (.csb .c) (withCarry State.reset) = .next t ∧ t.sr ≠ (withCarry State.reset).sr) ∧
    (∃ t, exec (.int 15) (user State.reset) = .next t ∧ t.sr ≠ (user State.reset).sr) ∧
    (∃ t, exec .urt State.reset = .next t ∧ t.sr ≠ State.reset.sr) ∧
    (∃ t, exec (.jmp 0 0) State.reset = .next t ∧ t.sr = State.reset.sr) :=
  ⟨⟨_, rfl, by decide⟩, ⟨_, rfl, by decide⟩, ⟨_, rfl, by decide⟩, ⟨_, rfl, by decide⟩, ⟨_, rfl, by decide⟩, ⟨_, rfl, by decide⟩⟩

/-- The interrupt clauses of `StatusRegisterWriters` and `OnlyStoresWriteMemory`. -/
theorem witness_interruptStep :
    (consult (requested (user State.reset))).1 = some 3 ∧ ∃ t, step (requested (user State.reset)) = .next t := ⟨rfl, _, rfl⟩

/-- The reset clause of `StatusRegisterWriters`. -/
theorem witness_resetEvent : ∃ t, resetEvent base = .next t := ⟨_, rfl⟩

theorem witness_MulCarryRegisterWriters :
    ∃ t, exec (.mul 3 1 2) (withRegs [(1, 0x10000), (2, 0x10000)]) = .next t ∧ t.mc ≠ (withRegs [(1, 0x10000), (2, 0x10000)]).mc :=
  ⟨_, rfl, by decide⟩

theorem witness_OnlyStoresWriteMemory :
    ∃ t, exec (.stb 1 0 5) (withRegs [(1, 7)]) = .next t ∧ t.mem ≠ (withRegs [(1, 7)]).mem := ⟨_, rfl, by decide⟩

theorem witness_OnlyTransfersDepartFromTheNextInstruction :
    (∃ t, exec (.add 3 1 2) State.reset = .next t) ∧ (Instr.add 3 1 2).isTransfer = false ∧
    (∃ t, exec (.mvu64 3 1) State.reset = .next t) ∧ (Instr.mvu64 3 1).isTransfer = false := ⟨⟨_, rfl⟩, rfl, ⟨_, rfl⟩, rfl⟩

/-- SSB IE executed in user mode. -/
theorem witness_UserModeCannotChangeControlBits :
    let s := (user State.reset).withFetchWord 32 0x72400000
    s.sr.km = false ∧ ∃ t, step s = .next t := ⟨rfl, _, rfl⟩

theorem witness_ModeChangesOnlyAtTheGates_int :
    let s := (user State.reset).withFetchWord 32 0x5F800000
    ∃ t, step s = .next t ∧ s.sr.km = false ∧ t.sr.km = true := ⟨_, rfl, rfl, by decide⟩

theorem witness_ModeChangesOnlyAtTheGates_hardware :
    let s := requested (user State.reset)
    ∃ t, step s = .next t ∧ s.sr.km = false ∧ t.sr.km = true := ⟨_, rfl, rfl, by decide⟩

theorem witness_ModeChangesOnlyAtTheGates_urt :
    let s := State.reset.withFetchWord 32 0x78000000
    ∃ t, step s = .next t ∧ s.sr.km = true ∧ t.sr.km = false := ⟨_, rfl, rfl, by decide⟩

/-- For `StepKeepsTheParameters` too; `base` has no extension, so every clause of the invariant speaks. -/
theorem witness_StepKeepsWellFormed :
    base.WellFormed ∧ ∃ t, step base = .next t :=
  ⟨⟨by decide, fun _ => by decide, fun _ => by decide, fun _ => rfl, fun _ => rfl, fun _ => rfl⟩, _, rfl⟩

theorem witness_ResetEvent :
    (State.reset.cfg.misaligned = .bytewise ∨ State.reset.cfg.rstVec.toNat % 4 = 0) ∧ base.cfg.misaligned = .refuse ∧
    base.cfg.rstVec.toNat % 4 = 0 := by decide

/-- For `NarrowStores`, `NarrowLoads` and `QuadWordAccess`, at the greatest aligned immediates. -/
theorem witness_accesses :
    accessAllowed base (base.effectiveAddress 0 (0x7FFF : BitVec 15)) .byte ∧
    accessAllowed base (base.effectiveAddress 0 (0x7FFE : BitVec 15)) .word ∧
    accessAllowed base (base.effectiveAddress 0 (0x7FFC : BitVec 15)) .dword ∧
    accessAllowed State.reset (State.reset.effectiveAddress 0 (0x7FFF : BitVec 15)) .qword ∧ State.reset.cfg.ext.q = true :=
  by unfold accessAllowed; decide

/-- For `WideStores` and `WideLoads`. -/
theorem witness_wideAccesses :
    let s := { State.reset with cfg := { Config.atReset with misaligned := .refuse } }
    accessAllowed s (s.effectiveAddress 0 (0x7FFFFFFFFFFF : BitVec 47)) .byte ∧
    accessAllowed s (s.effectiveAddress 0 (0x7FFFFFFFFFFE : BitVec 47)) .word ∧
    accessAllowed s (s.effectiveAddress 0 (0x7FFFFFFFFFFC : BitVec 47)) .dword ∧
    accessAllowed s (s.effectiveAddress 0 (0x7FFFFFFFFFF8 : BitVec 47)) .qword ∧ s.cfg.ext.q = true ∧
    accessAllowed (withParameters (fun c => { c with quadAlignment := .four }) s)
      (s.effectiveAddress 0 (0x7FFFFFFFFFFC : BitVec 47)) .qword :=
  by unfold accessAllowed; decide

theorem witness_RefusedAccesses :
    ¬ accessAllowed base (base.effectiveAddress 0 (1 : BitVec 15)) .word ∧
    ¬ accessAllowed base (base.effectiveAddress 0 (3 : BitVec 15)) .dword ∧
    ¬ accessAllowed base (base.effectiveAddress 0 (3 : BitVec 15)) .qword ∧
    ¬ accessAllowed base (base.effectiveAddress 0 (1 : BitVec 47)) .word ∧
    ¬ accessAllowed base (base.effectiveAddress 0 (3 : BitVec 47)) .dword ∧
    ¬ accessAllowed base (base.effectiveAddress 0 (3 : BitVec 47)) .qword := by unfold accessAllowed; decide

/-- A byte access is refused with VM = 1 only. -/
theorem witness_RefusedAccesses_virtual :
    let s := { base with sr := { base.sr with vm := true } }
    ¬ accessAllowed s (s.effectiveAddress 0 (0 : BitVec 15)) .byte ∧ ¬ accessAllowed s (s.effectiveAddress 0 (0 : BitVec 47)) .byte :=
  by unfold accessAllowed; decide

theorem witness_IntTakesItsVector :
    State.reset.sr.vm = false ∧ exec (.int 0) { base with sr := { base.sr with vm := true } }
      = .refused .virtualMemoryNotSpecified := ⟨rfl, rfl⟩

/-- For every statement about the integer ALU with FPM = 0, at both widths. -/
theorem witness_integerMode :
    State.reset.fpm = false ∧ (wide State.reset).fpm = false ∧ (wide State.reset).opWidth = 64 ∧ State.reset.opWidth = 32 :=
  by decide

theorem witness_MviLoadsTheConstant :
    State.reset.fpm = false ∧ isReadOnly 1 = false ∧ isReadOnly 0 = true ∧
    (after (exec (.mvu 1 (0x12345678#32 |>.extractLsb' 10 22)) State.reset)).bind
      (fun t => (after (exec (.addi 1 1 ((0x12345678#32 |>.extractLsb' 0 10).setWidth 14)) t)).map (fun u => u.readReg 1))
      = some 0x12345678#64 := by decide

/-- Both values of FpNumerics; for `Conversions` too. -/
theorem witness_FloatingMode :
    let s := { State.reset with sr := { State.reset.sr with fpm := true } }
    s.fpm = true ∧ s.cfg.fp = .supplied ∧ (withParameters (fun c => { c with fp := .none }) s).fpm = true ∧
    (withParameters (fun c => { c with fp := .none }) s).cfg.fp = .none := by decide

/-- The four values of MulCarryOut. -/
theorem witness_Multiplication :
    let s (m : MulCarryOut) := withParameters (fun c => { c with mulCarry := m }) State.reset
    (s .signedHigh).cfg.mulCarry = .signedHigh ∧ (s .unsignedHigh).cfg.mulCarry = .unsignedHigh ∧
    (s .mlcOnly).cfg.mulCarry = .mlcOnly ∧ (s .platform).cfg.mulCarry = .platform ∧ (s .platform).fpm = false := by decide

/-- The most negative dividend, divided by 1. -/
theorem witness_Division :
    let s := withRegs [(1, 0x80000000), (2, 1)]
    s.fpm = false ∧ (operand s 2).toInt ≠ 0 ∧ ¬ ((operand s 1).toInt = -2 ^ (s.opWidth - 1) ∧ (operand s 2).toInt = -1) :=
  by decide

/-- The overflowing quotient, and a zero divisor. -/
theorem witness_DivisionWithoutResult :
    let s := withRegs [(1, 0x80000000), (2, 0xFFFFFFFF)]
    s.fpm = false ∧ ((operand s 1).toInt = -2 ^ (s.opWidth - 1) ∧ (operand s 2).toInt = -1) ∧ (operand s 3).toInt = 0 ∧
    s.cfg.divZero = .anyValue ∧ (withParameters (fun c => { c with divZero := .refuse }) s).cfg.divZero = .refuse := by decide

/-- Plain memory, a device's eight bytes, an aligned access of each kind and a misaligned one. -/
theorem witness_TransfersOfAnAccess :
    inMemory State.reset 0xFFFFFFFF 2 ∧ (∀ k < 8, isPlain (withDevice base).cfg (0x2000 + BitVec.ofNat 32 k) = false) ∧
    readTransfers 0x2004 .dword = [.read 0x2004 4] ∧ readTransfers 0x2004 .qword = [.read 0x2004 4, .read 0x2008 4] ∧
    writeTransfers 0xFFFFFFFC .qword [1, 2, 3, 4, 5, 6, 7, 8]
      = [.write 0xFFFFFFFC [1, 2, 3, 4], .write 0 [5, 6, 7, 8]] ∧
    readTransfers 0xFFFFFFFF .word = [.read 0xFFFFFFFF 1, .read 0 1] := by unfold inMemory; decide

/-- The self-jump `JMP EPC, 0`, with IE = 0, and with IE = 1 and a platform that presents none from then on. -/
def selfJump : State := State.reset.withFetchWord 32 0x27C00000

theorem witness_EndOfRun :
    noInterruptComes selfJump ∧ fetchAllowed selfJump selfJump.pc ∧ selfJump.cfg.epcOffset = .zero ∧
    wordAt selfJump selfJump.pc = 0x27C00000#32 := ⟨.inl rfl, ⟨rfl, .inl rfl⟩, rfl, by decide⟩

theorem witness_EndOfRun_enabled :
    let s := { selfJump with sr := { selfJump.sr with ie := true }, requests := [none] }
    AtEnd s ∧ ∃ t, step s = .next t ∧ t.presented = s.presented ∧ t.requests ≠ s.requests := by
  refine ⟨⟨.inr (by decide), _, rfl, by decide, rfl, rfl, rfl, rfl⟩, _, rfl, rfl, by decide⟩

end Sys2Proof.Tests
end

/-! The synthetic instructions of 30_encoding.md: MVI (R121), CMP (R127) and SHL (R131), each one or two instructions of the
processor. -/

namespace Sys2Proof.Machine

/-- An effect may be weakened. -/
theorem completes.imp {i : Instr} {s : State} {P Q : State → Prop} (h : completes i s P) (hpq : ∀ t, P t → Q t) :
    completes i s Q := by
  obtain ⟨t, ht, hP⟩ := h
  exact ⟨t, ht, hpq t hP⟩

/-! The frame of a register write. -/

/-- A register that discards writes holds nothing of what was written (R24). -/
theorem writesReg_iff_keepsRegs {c : RegNum} (hc : isReadOnly c = true) (v : QWord) (s t : State) :
    writesReg c v s t ↔ keepsRegs s t := by
  simp [writesReg, keepsRegs, hc]

/-- A writable register reads what was written to it (R24). -/
theorem writesReg.readReg_eq {c : RegNum} {v : QWord} {s t : State} (h : writesReg c v s t) (hc : isReadOnly c = false) :
    t.readReg c = v := by
  have h25 : c ≠ 25#5 := by rintro rfl; simp [isReadOnly] at hc
  have h31 : c ≠ 31#5 := by rintro rfl; simp [isReadOnly] at hc
  simpa [hc] using h c h25 h31

/-- Of two writes to one register the later one stays. -/
theorem writesReg.trans {c : RegNum} {v v' : QWord} {s t u : State} (h : writesReg c v s t) (h' : writesReg c v' t u) :
    writesReg c v' s u := by
  intro r h25 h31
  rw [h' r h25 h31]
  split
  · rfl
  · rename_i hr
    rw [h r h25 h31, if_neg hr]

theorem keepsMemory.trans {s t u : State} (h : keepsMemory s t) (h' : keepsMemory t u) : keepsMemory s u :=
  fun a => (h' a).trans (h a)

/-! The instructions they are made of, while FPM = 0. -/

/-- An instruction that is an ALU operation has, while FPM = 0, the effect of its integer result (R190, R198). -/
theorem completes_of_aluStep {i : Instr} {s : State} {key : AluKey} {length : Addr} {c : RegNum} {x y : BitVec s.opWidth}
    {out : AluOut s.opWidth} (hi : exec i s = aluStep key length c s x y out) (h : s.fpm = false) :
    completes i s (aluEffect c length out.r out.c out.v s) := by
  obtain ⟨t, ht, he⟩ := aluStep_integer key length c h x y out
  exact ⟨t, hi.trans ht, he⟩

/-- ADD while FPM = 0, in terms of `addc` (R191). -/
theorem completes_add {s : State} (h : s.fpm = false) (c a b : RegNum) :
    let out := addc (operand s a) (operand s b) false
    completes (.add c a b) s (aluEffect c 4#32 out.r out.c out.v s) := by
  rw [operand_eq, operand_eq]
  exact completes_of_aluStep (key := aluKey 0) (x := s.regOperand a) (y := s.regOperand b) rfl h

/-- SUB while FPM = 0, in terms of `subb` (R193). -/
theorem completes_sub {s : State} (h : s.fpm = false) (c a b : RegNum) :
    let out := subb (operand s a) (operand s b) false
    completes (.sub c a b) s (aluEffect c 4#32 out.r out.c out.v s) := by
  rw [operand_eq, operand_eq]
  exact completes_of_aluStep (key := aluKey 2) (x := s.regOperand a) (y := s.regOperand b) rfl h

/-- ADDI while FPM = 0, in terms of `addc` (R199). -/
theorem completes_addi {s : State} (h : s.fpm = false) (c a : RegNum) (imm : BitVec 14) :
    let out := addc (operand s a) (immediate s imm) false
    completes (.addi c a imm) s (aluEffect c 4#32 out.r out.c out.v s) := by
  rw [operand_eq, immediate_eq s imm (by decide)]
  exact completes_of_aluStep (key := aluImmKey 0) (x := s.regOperand a) (y := s.immOperand imm) rfl h

/-- MVU (R145): its value has 32 bits and fits a register of any processor. -/
theorem completes_mvu (s : State) (c : RegNum) (imm : BitVec 22) :
    completes (.mvu c imm) s (moveEffect c (upperImmediate imm) 4#32 s) :=
  ⟨_, rfl, move_effect shortLength (State.clip_setWidth_of_le (by decide) s _)⟩

/-! CMP (R127). -/

/-- Settles O50: the flags of a subtraction are those of the comparison, and E0X discards the difference. -/
theorem compareFlags : Obligations.CompareFlags := by
  intro s a b h
  refine (completes_sub h 0#5 a b).imp fun t he => ?_
  obtain ⟨hreg, hsr, -, -, hmem, -⟩ := he
  have hkeep : keepsRegs s t := (writesReg_iff_keepsRegs (by decide) _ s t).mp hreg
  rw [subb_r, subb_c, subb_v s.opWidth_cases] at hsr
  simp [hsr, hkeep, hmem, BitVec.sub_eq_iff_eq_add]

/-! SHL (R131). -/

/-- The top bit is what doubling carries out. -/
theorem msb_eq_decide_le_add_self {w : Nat} (x : BitVec w) : x.msb = decide (2 ^ w ≤ x.toNat + x.toNat) := by
  rw [BitVec.msb_eq_decide]
  cases w with
  | zero => simp [BitVec.of_length_zero]
  | succ n => rw [Nat.add_sub_cancel, pow_succ, decide_eq_decide]; omega

/-- A number added to itself is shifted left by one: the carry is the bit shifted out, and it overflows where the sign changes
(R12, R131). -/
theorem addc_self {w : Nat} (x : BitVec w) :
    addc x x false = { r := x <<< 1, c := x.msb, v := x.msb != (x <<< 1).msb } := by
  have hr : BitVec.ofNat w (x.toNat + x.toNat) = x <<< 1 := by
    apply BitVec.eq_of_toNat_eq
    simp [Nat.shiftLeft_eq, mul_two]
  simp only [addc, Bool.toNat_false, Nat.add_zero, hr, ← msb_eq_decide_le_add_self, beq_self_eq_true, Bool.true_and,
    AluOut.mk.injEq, true_and]
  exact bne_comm

/-- Settles O51: ADD of a register to itself, with `addc_self` for its result and flags. -/
theorem shiftLeftByAddition : Obligations.ShiftLeftByAddition := by
  intro s c a h
  have hadd := completes_add h c a a
  rwa [addc_self] at hadd

/-! MVI (R121). -/

/-- A constant of 32 bits keeps its value at an operating width. -/
theorem constant_toNat {w : Nat} (hw : 32 ≤ w) (k : DWord) : (BitVec.ofNat w k.toNat).toNat = k.toNat :=
  Nat.mod_eq_of_lt (Nat.lt_of_lt_of_le k.isLt (Nat.pow_le_pow_right (by decide) hw))

theorem constant_setWidth {w : Nat} (hw : 32 ≤ w) (k : DWord) : (BitVec.ofNat w k.toNat).setWidth 64 = k.setWidth 64 := by
  apply BitVec.eq_of_toNat_eq
  rw [BitVec.toNat_setWidth, constant_toNat hw, BitVec.toNat_setWidth]

theorem constant_eq_zero_iff {w : Nat} (hw : 32 ≤ w) (k : DWord) : BitVec.ofNat w k.toNat = 0#w ↔ k = 0#32 := by
  rw [← BitVec.toNat_inj, ← BitVec.toNat_inj, constant_toNat hw, BitVec.toNat_zero, BitVec.toNat_zero]

/-- MVU's part of a constant: bits 31:10 in their place (R145). -/
theorem upperImmediate_extract_toNat (k : DWord) :
    (upperImmediate (k.extractLsb' 10 22)).toNat = k.toNat / 1024 * 1024 := by
  have hk := k.isLt
  rw [upperImmediate, BitVec.toNat_setWidth, BitVec.toNat_append, BitVec.extractLsb'_toNat, Nat.shiftRight_eq_div_pow,
    Nat.shiftLeft_eq, BitVec.toNat_zero, Nat.or_zero]
  omega

/-- ADDI's part of a constant: bits 9:0. -/
theorem lowImmediate_extract_toNat (k : DWord) : ((k.extractLsb' 0 10).setWidth 14).toNat = k.toNat % 1024 := by
  rw [BitVec.toNat_setWidth, BitVec.extractLsb'_toNat, Nat.shiftRight_zero]
  omega

/-- Bits 9:0 decide no sign: a number and the same number without them have one top bit. -/
theorem msb_eq_of_clear_low_bits {w : Nat} (hw : 32 ≤ w) {x r : BitVec w} (h : x.toNat = r.toNat / 1024 * 1024) :
    r.msb = x.msb := by
  have hp : 2 ^ (w - 1) = 2 ^ (w - 11) * 1024 := by
    rw [show w - 1 = w - 11 + 10 by omega, pow_add]; rfl
  rw [BitVec.msb_eq_decide, BitVec.msb_eq_decide, decide_eq_decide, h, hp]
  omega

/-- The two parts of a constant add up to it: no carry, since the constant fits, and no overflow, since its sign is that of the
upper part. -/
theorem addc_parts {w : Nat} (hw : 32 ≤ w) (k : DWord) {x y : BitVec w} (hx : x.toNat = k.toNat / 1024 * 1024)
    (hy : y.toNat = k.toNat % 1024) : addc x y false = { r := BitVec.ofNat w k.toNat, c := false, v := false } := by
  have hlt : ¬ 2 ^ w ≤ k.toNat := by
    have := (BitVec.ofNat w k.toNat).isLt
    rw [constant_toNat hw] at this
    omega
  have hsum : x.toNat + y.toNat = k.toNat := by omega
  have hmsb : (BitVec.ofNat w k.toNat).msb = x.msb := msb_eq_of_clear_low_bits hw (by rw [constant_toNat hw, hx])
  simp only [addc, Bool.toNat_false, Nat.add_zero, hsum, hmsb, hlt, decide_false, bne_self_eq_false, Bool.and_false]

/-- ADDI's sum where the register holds MVU's value, at either width. -/
theorem addc_upper_low {t : State} {c : RegNum} {k : DWord} (h : t.readReg c = upperImmediate (k.extractLsb' 10 22)) :
    addc (operand t c) (immediate t ((k.extractLsb' 0 10).setWidth 14)) false
      = { r := BitVec.ofNat t.opWidth k.toNat, c := false, v := false } := by
  have hw : 32 ≤ t.opWidth := by rcases t.opWidth_cases with hw | hw <;> omega
  have hlt : k.toNat < 2 ^ t.opWidth := by simpa only [constant_toNat hw] using (BitVec.ofNat t.opWidth k.toNat).isLt
  apply addc_parts hw k
  · rw [operand, h, upperImmediate_extract_toNat, BitVec.toNat_ofNat, Nat.mod_eq_of_lt (by omega)]
  · rw [immediate, lowImmediate_extract_toNat, BitVec.toNat_ofNat, Nat.mod_eq_of_lt (by omega)]

/-- Settles O35: in a writable register MVU's value and ADDI's immediate sum to the constant; a read-only one keeps its value
through both. -/
theorem mviLoadsTheConstant : Obligations.MviLoadsTheConstant := by
  intro s c k h
  refine (completes_mvu s c (k.extractLsb' 10 22)).imp fun t ht => ?_
  obtain ⟨hreg, hsr, -, hmc, hmem, ⟨hcfg, -⟩, -⟩ := ht
  have hfpm : t.fpm = false := (State.fpm_congr hcfg (by rw [hsr])).trans h
  have hwidth : t.opWidth = s.opWidth := State.opWidth_congr hcfg (by rw [hsr])
  have hw : 32 ≤ s.opWidth := by rcases s.opWidth_cases with hw | hw <;> omega
  refine (completes_addi hfpm c c ((k.extractLsb' 0 10).setWidth 14)).imp fun u hu => ?_
  obtain ⟨hreg', hsr', -, hmc', hmem', -⟩ := hu
  have hsum := fun hc : isReadOnly c = false => addc_upper_low (hreg.readReg_eq hc)
  refine ⟨hreg.trans ?_, hmem.trans hmem', hmc'.trans hmc, fun hc => ?_⟩
  · cases hc : isReadOnly c with
    | true => exact (writesReg_iff_keepsRegs hc _ t u).mpr ((writesReg_iff_keepsRegs hc _ t u).mp hreg')
    | false => rwa [hsum hc, constant_setWidth (hwidth ▸ hw)] at hreg'
  · rw [hsum hc, hsr, hwidth] at hsr'
    simpa only [constant_eq_zero_iff hw] using hsr'

end Sys2Proof.Machine

/-! The jumps of 43_jumps.md, with the wide unconditional jump JMP64 (47_ext64.md section 5). -/

namespace Sys2Proof.Machine

/-- Setting the pc to a jump target is the whole effect of a jump (R170). -/
theorem jumpTo_effect (s : State) (c : RegNum) {n : Nat} (imm : BitVec n) :
    jumpEffect (jumpAddress s c imm) s (s.jumpTo (s.jumpTarget c imm)) := by
  have hpc : (s.jumpTo (s.jumpTarget c imm)).pc = jumpAddress s c imm := by rw [State.jumpTo_pc, jumpTarget_eq]
  have hregs : keepsRegs s (s.jumpTo (s.jumpTarget c imm)) := keepsRegs_of_regs (by simp) (by simp)
  have hmem : keepsMemory s (s.jumpTo (s.jumpTarget c imm)) := keepsMemory_of_mem (by simp)
  exact ⟨hpc, hregs, by simp, by simp, hmem, by simp [keepsRest, keepsParameters]⟩

/-- An instruction that always jumps, with its immediate at any width (R170, R261). -/
theorem completes_of_jumpTo {i : Instr} {s : State} {c : RegNum} {n : Nat} {imm : BitVec n}
    (hi : exec i s = .next (s.jumpTo (s.jumpTarget c imm))) : completes i s (jumpEffect (jumpAddress s c imm) s) :=
  ⟨_, hi, jumpTo_effect s c imm⟩

/-- An instruction that is a conditional jump, at any length and with its immediate at any width (R171, R262). -/
theorem completes_of_condJump {i : Instr} {s : State} {taken : Bool} {length : Addr} {c : RegNum} {n : Nat} {imm : BitVec n}
    (hi : exec i s = condJump taken length c imm s) :
    completes i s (jumpEffect (if taken then jumpAddress s c imm else s.pc + length) s) := by
  obtain ⟨t, ht, he⟩ := condJump_effect_eq taken length c imm s
  exact ⟨t, hi.trans ht, he⟩

/-- Settles O42: JMP and JMP64 are one jump, with immediates of 15 and 54 bits. -/
theorem unconditionalJumps : Obligations.UnconditionalJumps := by
  intro s c imm long
  have hjmp : exec (.jmp c imm) s = .next (s.jumpTo (s.jumpTarget c imm)) := rfl
  have hjmp64 : exec (.jmp64 c long) s = .next (s.jumpTo (s.jumpTarget c long)) := rfl
  exact ⟨completes_of_jumpTo hjmp, completes_of_jumpTo hjmp64⟩

/-- Settles O43: the eight are one conditional jump past 4 bytes, four on a flag and four on its negation. -/
theorem conditionalJumps : Obligations.ConditionalJumps := by
  intro s c imm goes
  have hjz : exec (.jz c imm) s = condJump s.sr.z 4#32 c imm s := rfl
  have hjc : exec (.jc c imm) s = condJump s.sr.c 4#32 c imm s := rfl
  have hjs : exec (.js c imm) s = condJump s.sr.s 4#32 c imm s := rfl
  have hjv : exec (.jv c imm) s = condJump s.sr.v 4#32 c imm s := rfl
  have hjnz : exec (.jnz c imm) s = condJump (!s.sr.z) 4#32 c imm s := rfl
  have hjnc : exec (.jnc c imm) s = condJump (!s.sr.c) 4#32 c imm s := rfl
  have hjns : exec (.jns c imm) s = condJump (!s.sr.s) 4#32 c imm s := rfl
  have hjnv : exec (.jnv c imm) s = condJump (!s.sr.v) 4#32 c imm s := rfl
  exact ⟨completes_of_condJump hjz, completes_of_condJump hjc, completes_of_condJump hjs, completes_of_condJump hjv,
    completes_of_condJump hjnz, completes_of_condJump hjnc, completes_of_condJump hjns, completes_of_condJump hjnv⟩

end Sys2Proof.Machine

/-! Addition and subtraction of 44_alu.md. ADD, ADC and their immediate forms are one sum, of two operands and a carry in; SUB, SBC
and their immediate forms are one difference, of two operands and a borrow in. -/

namespace Sys2Proof.Machine

/-- The operating width is 64 where EXT_Q is present and QWM is 1, else 32 (R190). -/
theorem State.opWidth_eq (s : State) : s.opWidth = if s.cfg.ext.q && s.sr.qwm then 64 else 32 := rfl

/-- An instruction whose ALU result is `addc` completes, while FPM = 0, with the effect of the sum (R191, R192). -/
theorem completes_addition {i : Instr} {s : State} {key : AluKey} {length : Addr} {c : RegNum} {x y : BitVec s.opWidth}
    {cin : Bool} (hi : exec i s = aluStep key length c s x y (addc x y cin)) (h : s.fpm = false) :
    completes i s (additionEffect c length x y cin s) :=
  (completes_of_aluStep hi h).imp fun _ => addition_of_addc

/-- An instruction whose ALU result is `subb` completes, while FPM = 0, with the effect of the difference (R193, R194). -/
theorem completes_subtraction {i : Instr} {s : State} {key : AluKey} {length : Addr} {c : RegNum} {x y : BitVec s.opWidth}
    {bin : Bool} (hi : exec i s = aluStep key length c s x y (subb x y bin)) (h : s.fpm = false) :
    completes i s (subtractionEffect c length x y bin s) :=
  (completes_of_aluStep hi h).imp fun _ => subtraction_of_subb

/-- Settles O45: ADD and ADC are the sum of two registers, with carry in 0 and SR.C. -/
theorem addition : Obligations.Addition := by
  intro s c a b h
  have hadd : exec (.add c a b) s = aluReg 0 c a b s (addc (s.regOperand a) (s.regOperand b) false) := rfl
  have hadc : exec (.adc c a b) s = aluReg 1 c a b s (addc (s.regOperand a) (s.regOperand b) s.sr.c) := rfl
  rw [operand_eq s a, operand_eq s b]
  exact ⟨s.opWidth_eq, completes_addition hadd h, completes_addition hadc h⟩

/-- Settles O46: SUB and SBC are the difference of two registers, with borrow in 0 and SR.C. -/
theorem subtraction : Obligations.Subtraction := by
  intro s c a b h
  have hsub : exec (.sub c a b) s = aluReg 2 c a b s (subb (s.regOperand a) (s.regOperand b) false) := rfl
  have hsbc : exec (.sbc c a b) s = aluReg 3 c a b s (subb (s.regOperand a) (s.regOperand b) s.sr.c) := rfl
  rw [operand_eq s a, operand_eq s b]
  exact ⟨completes_subtraction hsub h, completes_subtraction hsbc h⟩

/-- Settles O47: the four are the sums and differences of O45 and O46 with the unsigned immediate as second operand. -/
theorem immediateArithmetic : Obligations.ImmediateArithmetic := by
  intro s c a imm h
  have haddi : exec (.addi c a imm) s = aluImm 0 c a imm s (addc (s.regOperand a) (s.immOperand imm) false) := rfl
  have hadci : exec (.adci c a imm) s = aluImm 1 c a imm s (addc (s.regOperand a) (s.immOperand imm) s.sr.c) := rfl
  have hsubi : exec (.subi c a imm) s = aluImm 2 c a imm s (subb (s.regOperand a) (s.immOperand imm) false) := rfl
  have hsbci : exec (.sbci c a imm) s = aluImm 3 c a imm s (subb (s.regOperand a) (s.immOperand imm) s.sr.c) := rfl
  rw [operand_eq s a, immediate_eq s imm (by decide)]
  exact ⟨completes_addition haddi h, completes_addition hadci h, completes_subtraction hsubi h, completes_subtraction hsbci h⟩

end Sys2Proof.Machine

/-! The 64-bit-long forms of 47_ext64.md: the immediate sums and differences of section 2 and the conditional jumps of section 5.
Each is the operation of its 32-bit-long form with a wider immediate and 8 bytes of length. -/

namespace Sys2Proof.Machine

/-- Settles O48: the four are the sums and differences of O47 with the unsigned immediate of 46 bits, cut to the operating width. -/
theorem wideImmediateArithmetic : Obligations.WideImmediateArithmetic := by
  intro s c a imm h
  have haddi : exec (.addi64 c a imm) s = aluLong 0 c a imm s (addc (s.regOperand a) (s.immOperand imm) false) := rfl
  have hadci : exec (.adci64 c a imm) s = aluLong 1 c a imm s (addc (s.regOperand a) (s.immOperand imm) s.sr.c) := rfl
  have hsubi : exec (.subi64 c a imm) s = aluLong 2 c a imm s (subb (s.regOperand a) (s.immOperand imm) false) := rfl
  have hsbci : exec (.sbci64 c a imm) s = aluLong 3 c a imm s (subb (s.regOperand a) (s.immOperand imm) s.sr.c) := rfl
  rw [operand_eq s a, immediate_eq s imm (by decide)]
  exact ⟨completes_addition haddi h, completes_addition hadci h, completes_subtraction hsubi h, completes_subtraction hsbci h⟩

/-- Settles O44: the eight are the conditional jump of O43 past 8 bytes, four on a flag and four on its negation. -/
theorem conditionalJumps64 : Obligations.ConditionalJumps64 := by
  intro s c imm goes
  have hjz : exec (.jz64 c imm) s = condJump s.sr.z 8#32 c imm s := rfl
  have hjc : exec (.jc64 c imm) s = condJump s.sr.c 8#32 c imm s := rfl
  have hjs : exec (.js64 c imm) s = condJump s.sr.s 8#32 c imm s := rfl
  have hjv : exec (.jv64 c imm) s = condJump s.sr.v 8#32 c imm s := rfl
  have hjnz : exec (.jnz64 c imm) s = condJump (!s.sr.z) 8#32 c imm s := rfl
  have hjnc : exec (.jnc64 c imm) s = condJump (!s.sr.c) 8#32 c imm s := rfl
  have hjns : exec (.jns64 c imm) s = condJump (!s.sr.s) 8#32 c imm s := rfl
  have hjnv : exec (.jnv64 c imm) s = condJump (!s.sr.v) 8#32 c imm s := rfl
  exact ⟨completes_of_condJump hjz, completes_of_condJump hjc, completes_of_condJump hjs, completes_of_condJump hjv,
    completes_of_condJump hjnz, completes_of_condJump hjnc, completes_of_condJump hjns, completes_of_condJump hjnv⟩

end Sys2Proof.Machine

/-! The encoding of 30_encoding.md: the decoder inverts the encoder (section 4), selects the opcode table's rows, ignores the unused
bits (section 3) and refuses exactly the reserved encodings (section 5). -/

namespace Sys2Proof

/-! The decoder on a word of each opcode in its format (R110). -/

theorem decodeShort_alu (c a b : RegNum) (fn : BitVec 3) : decodeShort (format5 0b00000 c a b fn) = decodeAlu c a b fn := by
  simp [decodeShort, opcodeOf]

theorem decodeShort_aluImm (c a : RegNum) (fn : BitVec 3) (imm : BitVec 14) :
    decodeShort (format6 0b00001 c a fn imm) = decodeAluImm c a imm fn := by
  simp [decodeShort, opcodeOf]

theorem decodeShort_shift (c a : RegNum) (fn : BitVec 3) : decodeShort (format7 0b00010 c a fn) = decodeShift c a fn := by
  simp [decodeShort, opcodeOf]

theorem decodeShort_jmp (c a : RegNum) (fn : BitVec 2) (imm : BitVec 15) :
    decodeShort (format3 0b00100 c a fn imm) = .ok (.jmp c imm) := by
  simp [decodeShort, opcodeOf]

theorem decodeShort_condJump (c : RegNum) (fn : BitVec 3) (imm : BitVec 19) :
    decodeShort (format4 0b00110 c fn imm) = decodeCondJump c imm fn := by
  simp [decodeShort, opcodeOf]

theorem decodeShort_store (c a : RegNum) (fn : BitVec 2) (imm : BitVec 15) :
    decodeShort (format3 0b01000 c a fn imm) = decodeStore c a imm fn := by
  simp [decodeShort, opcodeOf]

theorem decodeShort_load (c a : RegNum) (fn : BitVec 2) (imm : BitVec 15) :
    decodeShort (format3 0b01001 c a fn imm) = decodeLoad c a imm fn := by
  simp [decodeShort, opcodeOf]

theorem decodeShort_mvu (c : RegNum) (imm : BitVec 22) : decodeShort (format2 0b01010 c imm) = .ok (.mvu c imm) := by
  simp [decodeShort, opcodeOf]

theorem decodeShort_int (table : VectorNum) : decodeShort (format1 0b01011 table) = .ok (.int table) := by
  simp [decodeShort, opcodeOf]

theorem decodeShort_status (bit : BitVec 4) (sel : BitVec 1) :
    decodeShort (format9 0b01110 bit sel) = decodeStatus bit sel := by
  simp [decodeShort, opcodeOf]

theorem decodeShort_urt : decodeShort (format8 0b01111) = .ok .urt := by
  simp [decodeShort, opcodeOf]

theorem decodeShort_mulDiv (c a b : RegNum) (fn : BitVec 3) :
    decodeShort (format5 0b10110 c a b fn) = decodeMulDiv c a b fn := by
  simp [decodeShort, opcodeOf]

theorem decodeShort_float (c a b : RegNum) (fn : BitVec 3) : decodeShort (format5 0b10111 c a b fn) = decodeFloat c a fn := by
  simp [decodeShort, opcodeOf]

theorem decodeLong_alu (c a : RegNum) (fn : BitVec 3) (imm : BitVec 46) :
    decodeLong (format13 0b10000 c a fn imm) = decodeAluLong c a imm fn := by
  simp [decodeLong]

theorem decodeLong_mvu (c : RegNum) (imm : BitVec 54) : decodeLong (format10 0b10001 c imm) = .ok (.mvu64 c imm) := by
  simp [decodeLong]

theorem decodeLong_load (c a : RegNum) (fn : BitVec 2) (imm : BitVec 47) :
    decodeLong (format11 0b10010 c a fn imm) = decodeLoadLong c a imm fn := by
  simp [decodeLong]

theorem decodeLong_store (c a : RegNum) (fn : BitVec 2) (imm : BitVec 47) :
    decodeLong (format11 0b10011 c a fn imm) = decodeStoreLong c a imm fn := by
  simp [decodeLong]

theorem decodeLong_jmp (c : RegNum) (imm : BitVec 54) : decodeLong (format10 0b10100 c imm) = .ok (.jmp64 c imm) := by
  simp [decodeLong]

theorem decodeLong_condJump (c : RegNum) (fn : BitVec 3) (imm : BitVec 51) :
    decodeLong (format12 0b10101 c fn imm) = decodeCondJumpLong c imm fn := by
  simp [decodeLong]

theorem StatusBit.ofNumber_number (b : StatusBit) : StatusBit.ofNumber b.number = some b := by
  cases b <;> rfl

/-! The round trip. -/

/-- The code decodes to the instruction by the decoder of its length, which its opcode selects; a long one is an instruction of
`EXT_Q` (R92, R114). -/
def Code.decodesTo (i : Instr) : Code → Prop
  | .short w => isLongOpcode (opcodeOf w) = false ∧ decodeShort w = .ok i
  | .long w => isLongOpcode (w.extractLsb' 59 5) = true ∧ i.part = .quad ∧ decodeLong w = .ok i

theorem code_decodesTo (i : Instr) : i.code.decodesTo i := by
  cases i
  case add c a b | adc c a b | sub c a b | sbc c a b | and c a b | or c a b | xor c a b =>
    exact ⟨by rw [opcodeOf, format5_op]; rfl, decodeShort_alu c a b _⟩
  case addi c a imm | adci c a imm | subi c a imm | sbci c a imm | andi c a imm | ori c a imm | xori c a imm =>
    exact ⟨by rw [opcodeOf, format6_op]; rfl, decodeShort_aluImm c a _ imm⟩
  case shr c a | asr c a | srn c a | ror c a | sln c a =>
    exact ⟨by rw [opcodeOf, format7_op]; rfl, decodeShort_shift c a _⟩
  case jmp c imm => exact ⟨by rw [opcodeOf, format3_op]; rfl, decodeShort_jmp c 0 0 imm⟩
  case jz c imm | jc c imm | js c imm | jv c imm | jnz c imm | jnc c imm | jns c imm | jnv c imm =>
    exact ⟨by rw [opcodeOf, format4_op]; rfl, decodeShort_condJump c _ imm⟩
  case stb c a imm | stw c a imm | std c a imm | stq c a imm =>
    exact ⟨by rw [opcodeOf, format3_op]; rfl, decodeShort_store c a _ imm⟩
  case ldb c a imm | ldw c a imm | ldd c a imm | ldq c a imm =>
    exact ⟨by rw [opcodeOf, format3_op]; rfl, decodeShort_load c a _ imm⟩
  case mvu c imm => exact ⟨by rw [opcodeOf, format2_op]; rfl, decodeShort_mvu c imm⟩
  case int table => exact ⟨by rw [opcodeOf, format1_op]; rfl, decodeShort_int table⟩
  case ssb bit | csb bit =>
    refine ⟨by rw [opcodeOf, format9_op]; rfl, (decodeShort_status bit.number _).trans ?_⟩
    simp [decodeStatus, StatusBit.ofNumber_number]
  case urt => exact ⟨by rw [opcodeOf, format8_op]; rfl, decodeShort_urt⟩
  case addi64 c a imm | adci64 c a imm | subi64 c a imm | sbci64 c a imm | andi64 c a imm | ori64 c a imm
    | xori64 c a imm =>
    exact ⟨by rw [format13_op]; rfl, rfl, decodeLong_alu c a _ imm⟩
  case mvu64 c imm => exact ⟨by rw [format10_op]; rfl, rfl, decodeLong_mvu c imm⟩
  case ldb64 c a imm | ldw64 c a imm | ldd64 c a imm | ldq64 c a imm =>
    exact ⟨by rw [format11_op]; rfl, rfl, decodeLong_load c a _ imm⟩
  case stb64 c a imm | stw64 c a imm | std64 c a imm | stq64 c a imm =>
    exact ⟨by rw [format11_op]; rfl, rfl, decodeLong_store c a _ imm⟩
  case jmp64 c imm => exact ⟨by rw [format10_op]; rfl, rfl, decodeLong_jmp c imm⟩
  case jz64 c imm | jc64 c imm | js64 c imm | jv64 c imm | jnz64 c imm | jnc64 c imm | jns64 c imm | jnv64 c imm =>
    exact ⟨by rw [format12_op]; rfl, rfl, decodeLong_condJump c _ imm⟩
  case mul c a b | mlc c a b | div c a b | mod c a b =>
    exact ⟨by rw [opcodeOf, format5_op]; rfl, decodeShort_mulDiv c a b _⟩
  case itf c a | fti c a | sqr c a =>
    exact ⟨by rw [opcodeOf, format5_op]; rfl, decodeShort_float c a 0 _⟩

/-- The two halves of a 64-bit word make it up. -/
theorem append_halves (w : QWord) : w.extractLsb' 32 32 ++ w.extractLsb' 0 32 = w := by
  rw [BitVec.extractLsb'_append_extractLsb'_eq_extractLsb' (by rfl)]
  exact field_all w

/-- The opcode of two words joined is that of the first (R64, R91). -/
theorem opcode_append (w w' : DWord) : (w ++ w').extractLsb' 59 5 = opcodeOf w := field_high w w' 59 5 (by decide)

theorem opcodeOf_firstHalf (w : QWord) : opcodeOf (w.extractLsb' 32 32) = w.extractLsb' 59 5 := by
  rw [← opcode_append _ (w.extractLsb' 0 32), append_halves]

/-- Settles O1: a short word is decoded by its own opcode; the words of a long one are joined to the code it was cut from. -/
theorem decodeOfEncode : Obligations.DecodeOfEncode := by
  intro x i later hx
  have hi := code_decodesTo i
  unfold encode
  cases hc : i.code with
  | short w =>
    obtain ⟨hop, hdec⟩ := hc ▸ hi
    simp [Code.words, decode, hop, hdec, requirePart, hx]
  | long w =>
    obtain ⟨hop, hpart, hdec⟩ := hc ▸ hi
    have hq : x.q = true := by simpa [Instr.WellFormed, hpart, Extensions.has] using hx
    simp [Code.words, decode, opcodeOf_firstHalf, append_halves, hop, hq, hdec]

/-! What the decoder answers for two words. -/

/-- A word pair decodes by its first word alone where that has a short opcode, and as a whole where it has a long one, which
takes `EXT_Q` (R92, R114). -/
theorem decode_ok_iff (x : Extensions) (w w' : DWord) (i : Instr) : decode x [w, w'] = .ok i ↔
    (isLongOpcode (opcodeOf w) = false ∧ decodeShort w = .ok i ∧ x.has i.part = true) ∨
    (isLongOpcode (opcodeOf w) = true ∧ x.q = true ∧ decodeLong (w ++ w') = .ok i) := by
  cases hl : isLongOpcode (opcodeOf w) with
  | true => cases hq : x.q <;> simp [decode, hl, hq]
  | false =>
    cases hd : decodeShort w with
    | error e => simp [decode, hl, hd]
    | ok j =>
      by_cases hp : x.has j.part = true
      · simp only [decode, hl, hd, requirePart, hp]
        constructor
        · intro h; cases h; simp [hp]
        · rintro (⟨-, h, -⟩ | ⟨h, -⟩)
          · exact h
          · cases h
      · simp only [decode, hl, hd, requirePart, hp]
        constructor
        · intro h; cases h
        · rintro (⟨-, h, hp'⟩ | ⟨h, -⟩)
          · cases h; exact absurd hp' hp
          · cases h

/-! The rows of the opcode table: each group of the opcode map is one row but for its function field. -/

/-- A function field of two bits has four values. -/
theorem twoBits_cases : ∀ fn : BitVec 2, fn = 0 ∨ fn = 1 ∨ fn = 2 ∨ fn = 3 := by decide

/-- A function field of three bits has eight values. -/
theorem threeBits_cases :
    ∀ fn : BitVec 3, fn = 0 ∨ fn = 1 ∨ fn = 2 ∨ fn = 3 ∨ fn = 4 ∨ fn = 5 ∨ fn = 6 ∨ fn = 7 := by decide

/-- A field in its place in a word of n bits, the others 0. -/
def placed (n lo : Nat) {len : Nat} (f : BitVec len) : BitVec n := f.setWidth n <<< lo

/-- A word under the mask of a field is that field in its place. -/
theorem and_placed_ones {n : Nat} (w : BitVec n) (lo len : Nat) :
    w &&& placed n lo (BitVec.allOnes len) = placed n lo (w.extractLsb' lo len) := by
  apply BitVec.eq_of_getLsbD_eq
  intro k hk
  simp only [placed, BitVec.getLsbD_and, BitVec.getLsbD_shiftLeft, BitVec.getLsbD_setWidth, BitVec.getLsbD_allOnes,
    BitVec.getLsbD_extractLsb']
  by_cases hlo : k < lo
  · simp [hlo]
  · have e : lo + (k - lo) = k := by omega
    by_cases hlen : k - lo < len
    · have : k - lo < n := by omega
      simp [hlo, hlen, hk, e, this]
    · simp [hlen]

/-- A word under the mask of two fields. -/
theorem and_two_fields {n : Nat} {w m : BitVec n} {lo len lo' len' : Nat} {f : BitVec len} {g : BitVec len'}
    (hf : (w.extractLsb' lo len).toNat = f.toNat) (hg : w.extractLsb' lo' len' = g)
    (hm : m = placed n lo (BitVec.allOnes len) ||| placed n lo' (BitVec.allOnes len')) :
    w &&& m = placed n lo f ||| placed n lo' g := by
  rw [hm, BitVec.and_or_distrib_left, and_placed_ones, and_placed_ones, BitVec.eq_of_toNat_eq hf, hg]

/-- The row of a group of 32 bits: the opcode and the function field in their places (R110). -/
def Row.inGroup (op : BitVec 5) (lo : Nat) {len : Nat} (fn : BitVec len) : Row :=
  .short (placed 32 27 op ||| placed 32 lo fn) (placed 32 27 (BitVec.allOnes 5) ||| placed 32 lo (BitVec.allOnes len))

/-- The row of a group of 64 bits. -/
def Row.inGroupLong (op : BitVec 5) (lo : Nat) {len : Nat} (fn : BitVec len) : Row :=
  .long (placed 64 59 op ||| placed 64 lo fn) (placed 64 59 (BitVec.allOnes 5) ||| placed 64 lo (BitVec.allOnes len))

/-- A word with the opcode of a group selects the group's row with its own function field. -/
theorem Row.selects_of_inGroup {i : Instr} {w : DWord} {op : BitVec 5} {lo len : Nat}
    (h : i.isLong = false ∧ i.row = Row.inGroup op lo (w.extractLsb' lo len)) (hop : (opcodeOf w).toNat = op.toNat) :
    i.isLong = false ∧ i.row.selects (.short w) = true :=
  ⟨h.1, h.2 ▸ Laws.selects_short (and_two_fields hop rfl rfl) rfl⟩

/-- So does a word of a group of one row, which has no function field. -/
theorem Row.selects_of_opcode {w : DWord} (op : BitVec 5) {p : DWord} (hp : placed 32 27 op = p)
    (hop : (opcodeOf w).toNat = op.toNat) : (Row.short p 0xF8000000#32).selects (.short w) = true :=
  Laws.selects_short (and_placed_ones w 27 5) ((congrArg (placed 32 27) (BitVec.eq_of_toNat_eq hop)).trans hp)

theorem Row.selects_of_inGroupLong {i : Instr} {w : QWord} {op : BitVec 5} {lo len : Nat}
    (h : i.isLong = true ∧ i.part = .quad ∧ i.row = Row.inGroupLong op lo (w.extractLsb' lo len))
    (hop : (w.extractLsb' 59 5).toNat = op.toNat) :
    i.isLong = true ∧ i.part = .quad ∧ i.row.selects (.long w) = true :=
  ⟨h.1, h.2.1, h.2.2 ▸ Laws.selects_long (and_two_fields hop rfl rfl) rfl⟩

theorem Row.selects_of_opcodeLong {w : QWord} (op : BitVec 5) {p : QWord} (hp : placed 64 59 op = p)
    (hop : (w.extractLsb' 59 5).toNat = op.toNat) : (Row.long p 0xF800000000000000#64).selects (.long w) = true :=
  Laws.selects_long (and_placed_ones w 59 5) ((congrArg (placed 64 59) (BitVec.eq_of_toNat_eq hop)).trans hp)

section

variable {c a b : RegNum} {i : Instr}

theorem decodeAlu_row {fn : BitVec 3} (h : decodeAlu c a b fn = .ok i) :
    i.isLong = false ∧ i.row = Row.inGroup 0b00000 9 fn := by
  rcases threeBits_cases fn with rfl | rfl | rfl | rfl | rfl | rfl | rfl | rfl <;> cases h <;> exact ⟨rfl, rfl⟩

theorem decodeAluImm_row {imm : BitVec 14} {fn : BitVec 3} (h : decodeAluImm c a imm fn = .ok i) :
    i.isLong = false ∧ i.row = Row.inGroup 0b00001 14 fn := by
  rcases threeBits_cases fn with rfl | rfl | rfl | rfl | rfl | rfl | rfl | rfl <;> cases h <;> exact ⟨rfl, rfl⟩

theorem decodeShift_row {fn : BitVec 3} (h : decodeShift c a fn = .ok i) :
    i.isLong = false ∧ i.row = Row.inGroup 0b00010 14 fn := by
  rcases threeBits_cases fn with rfl | rfl | rfl | rfl | rfl | rfl | rfl | rfl <;> cases h <;> exact ⟨rfl, rfl⟩

theorem decodeCondJump_row {imm : BitVec 19} {fn : BitVec 3} (h : decodeCondJump c imm fn = .ok i) :
    i.isLong = false ∧ i.row = Row.inGroup 0b00110 19 fn := by
  rcases threeBits_cases fn with rfl | rfl | rfl | rfl | rfl | rfl | rfl | rfl <;> cases h <;> exact ⟨rfl, rfl⟩

theorem decodeStore_row {imm : BitVec 15} {fn : BitVec 2} (h : decodeStore c a imm fn = .ok i) :
    i.isLong = false ∧ i.row = Row.inGroup 0b01000 15 fn := by
  rcases twoBits_cases fn with rfl | rfl | rfl | rfl <;> cases h <;> exact ⟨rfl, rfl⟩

theorem decodeLoad_row {imm : BitVec 15} {fn : BitVec 2} (h : decodeLoad c a imm fn = .ok i) :
    i.isLong = false ∧ i.row = Row.inGroup 0b01001 15 fn := by
  rcases twoBits_cases fn with rfl | rfl | rfl | rfl <;> cases h <;> exact ⟨rfl, rfl⟩

theorem decodeStatus_row {bit : BitVec 4} {sel : BitVec 1} (h : decodeStatus bit sel = .ok i) :
    i.isLong = false ∧ i.row = Row.inGroup 0b01110 22 sel := by
  unfold decodeStatus at h
  split at h
  · have hsel : ∀ sel : BitVec 1, sel = 0 ∨ sel = 1 := by decide
    rcases hsel sel with rfl | rfl <;> cases h <;> exact ⟨rfl, rfl⟩
  · cases h

theorem decodeMulDiv_row {fn : BitVec 3} (h : decodeMulDiv c a b fn = .ok i) :
    i.isLong = false ∧ i.row = Row.inGroup 0b10110 9 fn := by
  rcases threeBits_cases fn with rfl | rfl | rfl | rfl | rfl | rfl | rfl | rfl <;> cases h <;> exact ⟨rfl, rfl⟩

theorem decodeFloat_row {fn : BitVec 3} (h : decodeFloat c a fn = .ok i) :
    i.isLong = false ∧ i.row = Row.inGroup 0b10111 9 fn := by
  rcases threeBits_cases fn with rfl | rfl | rfl | rfl | rfl | rfl | rfl | rfl <;> cases h <;> exact ⟨rfl, rfl⟩

theorem decodeAluLong_row {imm : BitVec 46} {fn : BitVec 3} (h : decodeAluLong c a imm fn = .ok i) :
    i.isLong = true ∧ i.part = .quad ∧ i.row = Row.inGroupLong 0b10000 46 fn := by
  rcases threeBits_cases fn with rfl | rfl | rfl | rfl | rfl | rfl | rfl | rfl <;> cases h <;> exact ⟨rfl, rfl, rfl⟩

theorem decodeLoadLong_row {imm : BitVec 47} {fn : BitVec 2} (h : decodeLoadLong c a imm fn = .ok i) :
    i.isLong = true ∧ i.part = .quad ∧ i.row = Row.inGroupLong 0b10010 47 fn := by
  rcases twoBits_cases fn with rfl | rfl | rfl | rfl <;> cases h <;> exact ⟨rfl, rfl, rfl⟩

theorem decodeStoreLong_row {imm : BitVec 47} {fn : BitVec 2} (h : decodeStoreLong c a imm fn = .ok i) :
    i.isLong = true ∧ i.part = .quad ∧ i.row = Row.inGroupLong 0b10011 47 fn := by
  rcases twoBits_cases fn with rfl | rfl | rfl | rfl <;> cases h <;> exact ⟨rfl, rfl, rfl⟩

theorem decodeCondJumpLong_row {imm : BitVec 51} {fn : BitVec 3} (h : decodeCondJumpLong c imm fn = .ok i) :
    i.isLong = true ∧ i.part = .quad ∧ i.row = Row.inGroupLong 0b10101 51 fn := by
  rcases threeBits_cases fn with rfl | rfl | rfl | rfl | rfl | rfl | rfl | rfl <;> cases h <;> exact ⟨rfl, rfl, rfl⟩

/-- The short decoder answers the instruction whose row its word selects. -/
theorem decodeShort_row {w : DWord} (h : decodeShort w = .ok i) : i.isLong = false ∧ i.row.selects (.short w) = true := by
  unfold decodeShort at h
  simp only at h
  split at h
  case h_1 hop => exact Row.selects_of_inGroup (decodeAlu_row h) hop
  case h_2 hop => exact Row.selects_of_inGroup (decodeAluImm_row h) hop
  case h_3 hop => exact Row.selects_of_inGroup (decodeShift_row h) hop
  case h_4 hop => cases h; exact ⟨rfl, Row.selects_of_opcode 0b00100 (by decide) hop⟩
  case h_5 hop => exact Row.selects_of_inGroup (decodeCondJump_row h) hop
  case h_6 hop => exact Row.selects_of_inGroup (decodeStore_row h) hop
  case h_7 hop => exact Row.selects_of_inGroup (decodeLoad_row h) hop
  case h_8 hop => cases h; exact ⟨rfl, Row.selects_of_opcode 0b01010 (by decide) hop⟩
  case h_9 hop => cases h; exact ⟨rfl, Row.selects_of_opcode 0b01011 (by decide) hop⟩
  case h_10 hop => exact Row.selects_of_inGroup (decodeStatus_row h) hop
  case h_11 hop => cases h; exact ⟨rfl, Row.selects_of_opcode 0b01111 (by decide) hop⟩
  case h_12 hop => exact Row.selects_of_inGroup (decodeMulDiv_row h) hop
  case h_13 hop => exact Row.selects_of_inGroup (decodeFloat_row h) hop
  case h_14 => cases h

/-- So does the long decoder, and its instructions are those of `EXT_Q`. -/
theorem decodeLong_row {w : QWord} (h : decodeLong w = .ok i) :
    i.isLong = true ∧ i.part = .quad ∧ i.row.selects (.long w) = true := by
  unfold decodeLong at h
  simp only at h
  split at h
  case h_1 hop => exact Row.selects_of_inGroupLong (decodeAluLong_row h) hop
  case h_2 hop => cases h; exact ⟨rfl, rfl, Row.selects_of_opcodeLong 0b10001 (by decide) hop⟩
  case h_3 hop => exact Row.selects_of_inGroupLong (decodeLoadLong_row h) hop
  case h_4 hop => exact Row.selects_of_inGroupLong (decodeStoreLong_row h) hop
  case h_5 hop => cases h; exact ⟨rfl, rfl, Row.selects_of_opcodeLong 0b10100 (by decide) hop⟩
  case h_6 hop => exact Row.selects_of_inGroupLong (decodeCondJumpLong_row h) hop
  case h_7 => cases h

end

/-- Settles O2: a short word selects the row by itself, a long one joined with the word after it. -/
theorem decodedWordSelectsItsRow : Obligations.DecodedWordSelectsItsRow := by
  intro x w w' i h
  rcases (decode_ok_iff x w w' i).mp h with ⟨-, hdec, hpart⟩ | ⟨-, hq, hdec⟩
  · obtain ⟨hlen, hrow⟩ := decodeShort_row hdec
    exact ⟨hpart, by simpa [hlen] using hrow⟩
  · obtain ⟨hlen, hpart, hrow⟩ := decodeLong_row hdec
    exact ⟨(congrArg x.has hpart).trans hq, by simpa [hlen] using hrow⟩

/-! Unused bits (R106). -/

/-- A field that a mask keeps is the same in words that agree under the mask. -/
theorem field_eq_of_and_eq {n : Nat} {w v m : BitVec n} (h : w &&& m = v &&& m) (lo len : Nat)
    (hm : m.extractLsb' lo len = BitVec.allOnes len) : w.extractLsb' lo len = v.extractLsb' lo len := by
  have := congrArg (BitVec.extractLsb' lo len) h
  simpa [BitVec.extractLsb'_and, hm] using this

/-- Every format uses the opcode. -/
theorem usedBits_opcode (op : BitVec 5) : (usedBits op).extractLsb' 27 5 = BitVec.allOnes 5 := by
  revert op; decide

/-- Words with one short opcode decode alike where the short decoder reads them alike. -/
theorem decode_eq_of_decodeShort_eq (x : Extensions) {w v : DWord} (w' : DWord) {k : Nat} (hw : (opcodeOf w).toNat = k)
    (hop : opcodeOf w = opcodeOf v) (hk : k < 16 ∨ 21 < k) (h : decodeShort w = decodeShort v) :
    decode x [w, w'] = decode x [v, w'] := by
  have hl : isLongOpcode (opcodeOf v) = false := by
    rw [← hop, isLongOpcode, hw]
    rcases hk with hk | hk <;> simp <;> omega
  simp [decode, hop, hl, h]

/-- Settles O3: the opcode is always used; a format that marks some bits unused decodes from its used fields, and the others use
every bit. -/
theorem unusedBitsAreIgnored : Obligations.UnusedBitsAreIgnored := by
  intro x w v w' h
  have hop : opcodeOf w = opcodeOf v := field_eq_of_and_eq h 27 5 (usedBits_opcode _)
  unfold usedBits at h
  split at h
  case h_1 hw | h_2 hw =>
    have hc := field_eq_of_and_eq h 22 5 (by decide)
    have ha := field_eq_of_and_eq h 17 5 (by decide)
    have hb := field_eq_of_and_eq h 12 5 (by decide)
    have hfn := field_eq_of_and_eq h 9 3 (by decide)
    exact decode_eq_of_decodeShort_eq x w' hw hop (by decide) (by simp [decodeShort, ← hop, hw, hc, ha, hb, hfn])
  case h_3 hw =>
    have hc := field_eq_of_and_eq h 22 5 (by decide)
    have ha := field_eq_of_and_eq h 17 5 (by decide)
    have hfn := field_eq_of_and_eq h 14 3 (by decide)
    exact decode_eq_of_decodeShort_eq x w' hw hop (by decide) (by simp [decodeShort, ← hop, hw, hc, ha, hfn])
  case h_4 hw =>
    have hc := field_eq_of_and_eq h 22 5 (by decide)
    have himm := field_eq_of_and_eq h 0 15 (by decide)
    exact decode_eq_of_decodeShort_eq x w' hw hop (by decide) (by simp [decodeShort, ← hop, hw, hc, himm])
  case h_5 hw =>
    have htable := field_eq_of_and_eq h 23 4 (by decide)
    exact decode_eq_of_decodeShort_eq x w' hw hop (by decide) (by simp [decodeShort, ← hop, hw, htable])
  case h_6 hw =>
    have hbit := field_eq_of_and_eq h 23 4 (by decide)
    have hsel := field_eq_of_and_eq h 22 1 (by decide)
    exact decode_eq_of_decodeShort_eq x w' hw hop (by decide) (by simp [decodeShort, ← hop, hw, hbit, hsel])
  case h_7 hw => exact decode_eq_of_decodeShort_eq x w' hw hop (by decide) (by simp [decodeShort, ← hop, hw])
  case h_8 hw =>
    have hc := field_eq_of_and_eq h 22 5 (by decide)
    have ha := field_eq_of_and_eq h 17 5 (by decide)
    have hfn := field_eq_of_and_eq h 9 3 (by decide)
    exact decode_eq_of_decodeShort_eq x w' hw hop (by decide) (by simp [decodeShort, ← hop, hw, hc, ha, hfn])
  case h_9 =>
    have hall : w = v := by simpa [field_all] using field_eq_of_and_eq h 0 32 (by decide)
    rw [hall]

/-! Reserved encodings (R112, R114). Of each group, the function fields with an instruction on a processor. -/

section

variable (x : Extensions) (c a b : RegNum)

theorem decodeAlu_ok_iff (fn : BitVec 3) :
    (∃ i, decodeAlu c a b fn = .ok i ∧ x.has i.part = true) ↔ fn.toNat ≠ 7 := by
  rcases threeBits_cases fn with rfl | rfl | rfl | rfl | rfl | rfl | rfl | rfl <;>
    simp [decodeAlu, Extensions.has, Instr.part]

theorem decodeAluImm_ok_iff (imm : BitVec 14) (fn : BitVec 3) :
    (∃ i, decodeAluImm c a imm fn = .ok i ∧ x.has i.part = true) ↔ fn.toNat ≠ 7 := by
  rcases threeBits_cases fn with rfl | rfl | rfl | rfl | rfl | rfl | rfl | rfl <;>
    simp [decodeAluImm, Extensions.has, Instr.part]

theorem decodeShift_ok_iff (fn : BitVec 3) :
    (∃ i, decodeShift c a fn = .ok i ∧ x.has i.part = true) ↔ fn.toNat < 5 := by
  rcases threeBits_cases fn with rfl | rfl | rfl | rfl | rfl | rfl | rfl | rfl <;>
    simp [decodeShift, Extensions.has, Instr.part]

theorem decodeCondJump_ok (imm : BitVec 19) (fn : BitVec 3) :
    ∃ i, decodeCondJump c imm fn = .ok i ∧ x.has i.part = true := by
  rcases threeBits_cases fn with rfl | rfl | rfl | rfl | rfl | rfl | rfl | rfl <;> exact ⟨_, rfl, rfl⟩

theorem decodeStore_ok_iff (imm : BitVec 15) (fn : BitVec 2) :
    (∃ i, decodeStore c a imm fn = .ok i ∧ x.has i.part = true) ↔ (x.q = false → fn.toNat ≠ 3) := by
  rcases twoBits_cases fn with rfl | rfl | rfl | rfl <;> simp [decodeStore, Extensions.has, Instr.part]

theorem decodeLoad_ok_iff (imm : BitVec 15) (fn : BitVec 2) :
    (∃ i, decodeLoad c a imm fn = .ok i ∧ x.has i.part = true) ↔ (x.q = false → fn.toNat ≠ 3) := by
  rcases twoBits_cases fn with rfl | rfl | rfl | rfl <;> simp [decodeLoad, Extensions.has, Instr.part]

theorem ofNumber_isSome_iff : ∀ bit : BitVec 4, (StatusBit.ofNumber bit).isSome = true ↔ bit.toNat < 9 := by decide

theorem decodeStatus_ok_iff (bit : BitVec 4) (sel : BitVec 1) :
    (∃ i, decodeStatus bit sel = .ok i ∧ x.has i.part = true) ↔ bit.toNat < 9 := by
  rw [← ofNumber_isSome_iff, decodeStatus]
  cases StatusBit.ofNumber bit with
  | none => simp
  | some k => by_cases hsel : sel = 1#1 <;> simp [hsel, Extensions.has, Instr.part]

theorem decodeMulDiv_ok_iff (fn : BitVec 3) :
    (∃ i, decodeMulDiv c a b fn = .ok i ∧ x.has i.part = true) ↔ fn.toNat ∉ [3, 5, 6, 7] ∧ x.m = true := by
  rcases threeBits_cases fn with rfl | rfl | rfl | rfl | rfl | rfl | rfl | rfl <;>
    simp [decodeMulDiv, Extensions.has, Instr.part]

theorem decodeFloat_ok_iff (fn : BitVec 3) :
    (∃ i, decodeFloat c a fn = .ok i ∧ x.has i.part = true) ↔ fn.toNat < 3 ∧ x.f = true := by
  rcases threeBits_cases fn with rfl | rfl | rfl | rfl | rfl | rfl | rfl | rfl <;>
    simp [decodeFloat, Extensions.has, Instr.part]

theorem decodeAluLong_ok_iff (imm : BitVec 46) (fn : BitVec 3) :
    (∃ i, decodeAluLong c a imm fn = .ok i) ↔ fn.toNat ≠ 7 := by
  rcases threeBits_cases fn with rfl | rfl | rfl | rfl | rfl | rfl | rfl | rfl <;> simp [decodeAluLong]

theorem decodeLoadLong_ok (imm : BitVec 47) (fn : BitVec 2) : ∃ i, decodeLoadLong c a imm fn = .ok i := by
  rcases twoBits_cases fn with rfl | rfl | rfl | rfl <;> exact ⟨_, rfl⟩

theorem decodeStoreLong_ok (imm : BitVec 47) (fn : BitVec 2) : ∃ i, decodeStoreLong c a imm fn = .ok i := by
  rcases twoBits_cases fn with rfl | rfl | rfl | rfl <;> exact ⟨_, rfl⟩

theorem decodeCondJumpLong_ok (imm : BitVec 51) (fn : BitVec 3) : ∃ i, decodeCondJumpLong c imm fn = .ok i := by
  rcases threeBits_cases fn with rfl | rfl | rfl | rfl | rfl | rfl | rfl | rfl <;> exact ⟨_, rfl⟩

end

theorem isLongOpcode_iff (op : BitVec 5) : isLongOpcode op = true ↔ 16 ≤ op.toNat ∧ op.toNat ≤ 21 := by
  simp [isLongOpcode]

/-- The long decoder refuses, of the wide opcodes, one function field. -/
theorem decodeLong_ok_iff {w : DWord} (w' : DWord) (hl : isLongOpcode (opcodeOf w) = true) :
    (∃ i, decodeLong (w ++ w') = .ok i) ↔ ¬ ((opcodeOf w).toNat = 16 ∧ (w.extractLsb' 14 3).toNat = 7) := by
  obtain ⟨hlo, hhi⟩ := (isLongOpcode_iff _).mp hl
  have hfn : (w ++ w').extractLsb' 46 3 = w.extractLsb' 14 3 := field_high w w' 46 3 (by decide)
  unfold decodeLong
  rw [opcode_append, hfn]
  generalize (opcodeOf w).toNat = k at hlo hhi ⊢
  interval_cases k <;>
    simp [decodeAluLong_ok_iff, decodeLoadLong_ok, decodeStoreLong_ok, decodeCondJumpLong_ok]

/-- The short decoder, on a processor, refuses the reserved encodings of the short opcodes. -/
theorem decodeShort_ok_iff (x : Extensions) {w : DWord} (hl : isLongOpcode (opcodeOf w) = false) :
    (∃ i, decodeShort w = .ok i ∧ x.has i.part = true) ↔ ¬ reservedOn x w := by
  have hlong := (isLongOpcode_iff (opcodeOf w)).not.mp (by simp [hl])
  have hop := (opcodeOf w).isLt
  have hjmp : ∀ c imm, x.has (Instr.jmp c imm).part = true := fun _ _ => rfl
  have hmvu : ∀ c imm, x.has (Instr.mvu c imm).part = true := fun _ _ => rfl
  have hint : ∀ n, x.has (Instr.int n).part = true := fun _ => rfl
  have hurt : x.has Instr.urt.part = true := rfl
  unfold decodeShort reservedOn
  simp only
  generalize (opcodeOf w).toNat = k at hlong hop ⊢
  interval_cases k <;>
    simp [decodeAlu_ok_iff, decodeAluImm_ok_iff, decodeShift_ok_iff, decodeCondJump_ok, decodeStore_ok_iff,
      decodeLoad_ok_iff, decodeStatus_ok_iff, decodeMulDiv_ok_iff, decodeFloat_ok_iff, hjmp, hmvu, hint, hurt]
      at hlong ⊢

/-- Settles O4: a wide opcode asks for `EXT_Q` and one function field is reserved; under the short opcodes `decodeShort_ok_iff`. -/
theorem reservedEncodings : Obligations.ReservedEncodings := by
  intro x w w'
  simp only [decode_ok_iff]
  cases hl : isLongOpcode (opcodeOf w) with
  | false => simpa using decodeShort_ok_iff x hl
  | true =>
    have hop := (isLongOpcode_iff _).mp hl
    have hlong := decodeLong_ok_iff w' hl
    cases hq : x.q with
    | false => simpa [reservedOn, hq] using by omega
    | true =>
      simp only [reservedOn, hq]
      simp [hlong]
      omega

/-- Settles O5, by running the decoder on each word. -/
theorem sampleWordsDecode : Obligations.SampleWordsDecode := by
  unfold Obligations.SampleWordsDecode
  decide

end Sys2Proof

/-! Memory accesses (20_memory.md): what MemRead and MemWrite answer, what is read after a store, and the transfers a platform is
presented with; and the loads and stores of 42_load_store.md and 47_ext64.md section 4. -/

namespace Sys2Proof.Machine

/-! Where an access is performed. -/

/-- The alignment the access check asks for is the one R66 words, with D40's for eight bytes. -/
theorem alignment_eq_required (s : State) (n : Size) : alignment s.cfg n = requiredAlignment s n := by
  cases n <;> cases h : s.cfg.quadAlignment <;> simp [alignment, requiredAlignment, h, Size.bytes]

/-- An access is performed where neither of the two refusals of R66 applies. -/
theorem accessAllowed_iff (s : State) (a : Addr) (n : Size) : accessAllowed s a n ↔
    s.sr.vm ≠ true ∧ ¬ (a.toNat % requiredAlignment s n ≠ 0 ∧ s.cfg.misaligned = .refuse) := by
  rw [accessAllowed, alignment_eq_required]
  cases s.cfg.misaligned <;> simp

/-- A read is refused where its check is. -/
theorem memRead_of_refused {s : State} {a : Addr} {n : Size} {r : Refusal} (h : accessCheck s a n = .error r) :
    memRead s a n = .error r := by
  rw [memRead, h]; rfl

theorem memWrite_of_refused {s : State} {a : Addr} {n : Size} {r : Refusal} (h : accessCheck s a n = .error r) (v : QWord) :
    memWrite s a n v = .error r := by
  rw [memWrite, h]; rfl

/-- The check of a misaligned access, its alignment as R66 words it. -/
theorem accessCheck_of_misaligned {s : State} {a : Addr} {n : Size} (hv : s.sr.vm ≠ true)
    (h : a.toNat % requiredAlignment s n ≠ 0 ∧ s.cfg.misaligned = .refuse) : accessCheck s a n = .error .misalignedAccess :=
  accessCheck_misaligned (by simpa using hv) h.2 (by rw [alignment_eq_required]; exact h.1)

/-- Settles O13: the two refusals in their order, else the joined bytes. -/
theorem memReadValue : Obligations.MemReadValue := by
  intro s a n
  split
  case isTrue hv => exact memRead_of_refused (accessCheck_vm hv a n)
  case isFalse hv =>
    split
    case isTrue hm => exact memRead_of_refused (accessCheck_of_misaligned hv hm)
    case isFalse hm => exact ⟨_, memRead_of_allowed ((accessAllowed_iff s a n).mpr ⟨hv, hm⟩), joinBytes_toNat s a n⟩

/-- A completed store presents the platform with its bytes (R67, R71). -/
theorem presents_storeBytes (s : State) (a : Addr) (n : Size) (v : QWord) :
    presents (writeTransfers a n (bytesOf s n.bytes v)) s (s.storeBytes a n (splitBytes s.cfg.endian n.bytes v)) := by
  rw [splitBytes_eq_bytesOf]
  exact State.storeBytes_presented s a n _

/-- Settles O14: the refusals of a read, else the bytes are stored and presented. -/
theorem memWriteBytes : Obligations.MemWriteBytes := by
  intro s a n v
  split
  case isTrue hv => exact memWrite_of_refused (accessCheck_vm hv a n) v
  case isFalse hv =>
    split
    case isTrue hm => exact memWrite_of_refused (accessCheck_of_misaligned hv hm) v
    case isFalse hm =>
      exact ⟨_, memWrite_of_allowed ((accessAllowed_iff s a n).mpr ⟨hv, hm⟩) v, storedAt_storeBytes s a n v,
        presents_storeBytes s a n v, rfl⟩

/-! What is read after a store to plain memory. -/

/-- The low bytes of a value, by number. -/
theorem setWidth_setWidth_eq_ofNat (v : QWord) (n : Nat) : (v.setWidth n).setWidth 64 = BitVec.ofNat 64 (v.toNat % 2 ^ n) := by
  apply BitVec.eq_of_toNat_eq
  simp

/-- Settles O16: the bytes stored are the bytes read, and joining what was split gives the low bytes. -/
theorem loadAfterStore : Obligations.LoadAfterStore := by
  intro s t a n v hin ht
  obtain ⟨hallowed, rfl⟩ := memWrite_ok ht
  rw [memRead_of_allowed (by exact hallowed), readBytes_storeBytes v hin, State.storeBytes_cfg, joinBytes_splitBytes,
    setWidth_setWidth_eq_ofNat]

/-- A word of memory is its four bytes joined. -/
theorem wordAt_eq_joinBytes (s : State) (a : Addr) : wordAt s a = (joinBytes s.cfg.endian (s.readBytes a 4)).setWidth 32 := by
  have h : (joinBytes s.cfg.endian (s.readBytes a 4)).toNat = valueAt s a 4 := joinBytes_toNat s a .dword
  apply BitVec.eq_of_toNat_eq
  simp [wordAt, h]

/-- A double-word access and a fetch are performed at the same addresses (R31, R66). -/
theorem accessAllowed_dword_iff (s : State) (a : Addr) : accessAllowed s a .dword ↔ fetchAllowed s a := by
  rw [accessAllowed, alignment_eq_required]
  rfl

/-- Settles O17: the fetch joins the four bytes that the store split. -/
theorem storeIsSeenByTheFetch : Obligations.StoreIsSeenByTheFetch := by
  intro s t a v hin ht
  obtain ⟨hallowed, rfl⟩ := memWrite_ok ht
  have hbytes := readBytes_storeBytes (n := .dword) v hin
  rw [Size.bytes] at hbytes
  rw [fetchWord_of_allowed (by exact (accessAllowed_dword_iff s a).mp hallowed), wordAt_eq_joinBytes, Size.bytes, hbytes,
    State.storeBytes_cfg, joinBytes_splitBytes]
  simp

/-- A byte of a completed store, read where it was stored (R63). -/
theorem byteAt_storeBytes {s : State} {a : Addr} {n : Size} (v : QWord) (h : inMemory s a n.bytes) {k : Nat} (hk : k < n.bytes) :
    (s.storeBytes a n (splitBytes s.cfg.endian n.bytes v)).byteAt (a + BitVec.ofNat 32 k)
      = byteOf v (byteOrder s.cfg.endian n.bytes k) :=
  (State.byteAt_plain (by exact h k hk)).trans ((storedAt_storeBytes s a n v).1 k hk (h k hk))

/-- A single byte joined is itself, in either order. -/
theorem joinBytes_singleton (e : Endian) (b : Byte) : joinBytes e [b] = b.setWidth 64 := by
  cases e <;> simp [joinBytes, joinLittle]

/-- Two neighbouring bytes of a value joined are its 16 bits there. -/
theorem joinLittle_neighbours (v : QWord) (k : Nat) :
    joinLittle [byteOf v k, byteOf v (k + 1)] = (v.extractLsb' (8 * k) 16).setWidth 64 := by
  apply BitVec.eq_of_getLsbD_eq
  intro i hi
  simp only [joinLittle, byteOf, BitVec.getLsbD_or, BitVec.getLsbD_setWidth, BitVec.getLsbD_shiftLeft,
    BitVec.getLsbD_extractLsb', BitVec.zero_shiftLeft, BitVec.or_zero]
  rcases Nat.lt_or_ge i 8 with h8 | h8
  · have : i < 16 := by omega
    simp [h8, hi, this]
  · have e : 8 * (k + 1) + (i - 8) = 8 * k + i := by omega
    have h8' : ¬ i < 8 := by omega
    rcases Nat.lt_or_ge i 16 with h16 | h16
    · have : i - 8 < 8 := by omega
      have : i - 8 < 64 := by omega
      simp [*]
    · have : ¬ i - 8 < 8 := by omega
      have : ¬ i < 16 := by omega
      simp [*]

/-- The word read at an even offset of a completed double-word store. -/
theorem memRead_word_storeBytes {s : State} {a : Addr} (v : QWord) (h : inMemory s a 4) (hallowed : accessAllowed s a .dword)
    {k : Nat} (hk : k = 0 ∨ k = 2) :
    memRead (s.storeBytes a .dword (splitBytes s.cfg.endian 4 v)) (a + BitVec.ofNat 32 k) .word
      = .ok (joinBytes s.cfg.endian
          [byteOf v (byteOrder s.cfg.endian 4 k), byteOf v (byteOrder s.cfg.endian 4 (k + 1))]) := by
  obtain ⟨hvm, hal⟩ := (accessAllowed_dword_iff s a).mp hallowed
  have heven : accessAllowed (s.storeBytes a .dword (splitBytes s.cfg.endian 4 v)) (a + BitVec.ofNat 32 k) .word := by
    refine ⟨hvm, hal.imp_right fun ha => ?_⟩
    rw [alignment_eq_required]
    show (a + BitVec.ofNat 32 k).toNat % 2 = 0
    rw [BitVec.toNat_add, BitVec.toNat_ofNat]
    omega
  have h0 := byteAt_storeBytes (n := .dword) v h (k := k) (by simp only [Size.bytes]; omega)
  have h1 := byteAt_storeBytes (n := .dword) v h (k := k + 1) (by simp only [Size.bytes]; omega)
  have e : a + BitVec.ofNat 32 k + 1#32 = a + BitVec.ofNat 32 (k + 1) := by
    rw [BitVec.add_assoc, ← BitVec.ofNat_add]
  simp only [Size.bytes] at h0 h1
  rw [memRead_of_allowed heven]
  simp only [Size.bytes, State.readBytes, h0, e, h1, State.storeBytes_cfg]

/-- Settles O15: each byte of the store lies where the byte order puts it, and a word is two neighbouring ones. -/
theorem mixedWidthAccess : Obligations.MixedWidthAccess := by
  intro s t a v hin ht
  obtain ⟨hallowed, rfl⟩ := memWrite_ok ht
  have hlow := memRead_word_storeBytes v hin hallowed (.inl rfl)
  have hhigh := memRead_word_storeBytes v hin hallowed (.inr rfl)
  rw [BitVec.add_zero] at hlow
  refine ⟨fun k hk => ?_, fun he => ?_, fun he => ?_⟩
  · have hbyte := byteAt_storeBytes (n := .dword) v hin hk
    have hal : accessAllowed s (a + BitVec.ofNat 32 k) .byte :=
      ⟨hallowed.1, .inr (by rw [alignment_eq_required]; exact Nat.mod_one _)⟩
    rw [memRead_of_allowed (by exact hal)]
    simp only [Size.bytes, State.readBytes, joinBytes_singleton] at hbyte ⊢
    rw [hbyte]
  · rw [Size.bytes, hlow, hhigh, he]
    exact ⟨congrArg _ (joinLittle_neighbours v 0), congrArg _ (joinLittle_neighbours v 2)⟩
  · rw [Size.bytes, hlow, hhigh, he]
    exact ⟨congrArg _ (joinLittle_neighbours v 2), congrArg _ (joinLittle_neighbours v 0)⟩

/-! The transfers of an access (R69, D40). -/

/-- An aligned access of up to four bytes is one transfer. -/
theorem transferParts_aligned {a : Addr} {n : Size} (hn : n ≠ .qword) (ha : a.toNat % n.bytes = 0) :
    transferParts a n = [(0, n.bytes)] := by
  have hle : n.bytes ≤ 4 := by cases n <;> simp [Size.bytes] at hn ⊢
  rw [transferParts, Nat.min_eq_left hle, if_neg (by simp [ha]), if_neg (by omega)]

/-- An eight-byte access at a multiple of 4 is two of four bytes. -/
theorem transferParts_qword {a : Addr} (ha : a.toNat % 4 = 0) : transferParts a .qword = [(0, 4), (4, 4)] := by
  simp [transferParts, Size.bytes, ha]

/-- A misaligned access is one transfer for each byte (R68). -/
theorem transferParts_misaligned {a : Addr} {n : Size} (ha : a.toNat % min n.bytes 4 ≠ 0) :
    transferParts a n = (List.range n.bytes).map fun k => (k, 1) := by
  rw [transferParts, if_pos ha]

/-- No transfer is empty. -/
theorem transferParts_pos (a : Addr) (n : Size) : ∀ p ∈ transferParts a n, 0 < p.2 := by
  intro p hp
  unfold transferParts at hp
  split at hp
  · obtain ⟨k, -, rfl⟩ := List.mem_map.mp hp
    exact Nat.one_pos
  · split at hp
    · simp at hp
      rcases hp with rfl | rfl <;> decide
    · simp at hp
      subst hp
      cases n <;> decide

/-- A read outside plain memory reaches the platform with every transfer. -/
theorem readTransfers_outsideMemory {s : State} {a : Addr} {n : Size}
    (h : ∀ k < n.bytes, isPlain s.cfg (a + BitVec.ofNat 32 k) = false) :
    ∀ t ∈ readTransfers a n, reachesPlatform s.cfg t = true := by
  intro t ht
  obtain ⟨p, hp, rfl⟩ := List.mem_map.mp ht
  have hin := transferParts_inside a n p hp
  have hpos := transferParts_pos a n p hp
  simp only [reachesPlatform, List.any_eq_true, List.mem_range]
  exact ⟨0, hpos, by simp [h p.1 (by omega)]⟩

/-- So does a write of n bytes. -/
theorem writeTransfers_outsideMemory {s : State} {a : Addr} {n : Size} {bs : List Byte} (hl : bs.length = n.bytes)
    (h : ∀ k < n.bytes, isPlain s.cfg (a + BitVec.ofNat 32 k) = false) :
    ∀ t ∈ writeTransfers a n bs, reachesPlatform s.cfg t = true := by
  intro t ht
  obtain ⟨p, hp, rfl⟩ := List.mem_map.mp ht
  have hin := transferParts_inside a n p hp
  have hpos := transferParts_pos a n p hp
  simp only [reachesPlatform, List.any_eq_true, List.mem_range, List.length_take, List.length_drop]
  exact ⟨0, by omega, by simp [h p.1 (by omega)]⟩

/-- Transfers that all reach the platform are all presented. -/
theorem State.present_all {s : State} {ts : List Transfer} (h : ∀ t ∈ ts, reachesPlatform s.cfg t = true) :
    (s.present ts).presented = s.presented ++ ts := by
  rw [State.present_presented, List.filter_eq_self.mpr h]

/-- Settles O59, by the parts an access is cut into. -/
theorem transfersOfAnAccess : Obligations.TransfersOfAnAccess := by
  intro s a n bs
  refine ⟨fun hin => ?_, fun hout hl => ?_, fun hn ha hl => ?_, fun hn ha hl => ?_, fun ha => ?_⟩
  · exact ⟨State.present_of_memory (readTransfers_inMemory hin), State.present_of_memory (writeTransfers_inMemory hin)⟩
  · exact ⟨State.present_all (readTransfers_outsideMemory hout), State.present_all (writeTransfers_outsideMemory hl hout)⟩
  · simp [readTransfers, writeTransfers, transferParts_aligned hn ha, ← hl]
  · subst hn
    simp [readTransfers, writeTransfers, transferParts_qword ha, List.take_of_length_le, hl]
  · simp [readTransfers, transferParts_misaligned ha]

/-! Loads and stores. -/

/-- An instruction that is a store completes with the store's effect where its access is performed (R150). -/
theorem completes_of_storeStep {i : Instr} {s : State} {n : Size} {length : Addr} {c : RegNum} {ea : Addr}
    (hi : exec i s = storeStep n length c ea s) (h : accessAllowed s ea n) :
    completes i s (storeEffect ea n (s.readReg c) length s) := by
  obtain ⟨t, ht, he⟩ := storeStep_effect_of_allowed (length := length) (c := c) h
  exact ⟨t, hi.trans ht, he⟩

/-- An instruction that is a load completes with the load's effect where its access is performed; eight bytes fit a register of a
processor with `EXT_Q` only (R150, R155). -/
theorem completes_of_loadStep {i : Instr} {s : State} {n : Size} {length : Addr} {c : RegNum} {ea : Addr}
    (hi : exec i s = loadStep n length c ea s) (hq : n = .qword → s.cfg.ext.q = true) (h : accessAllowed s ea n) :
    completes i s (loadEffect c ea n length s) := by
  obtain ⟨t, ht, he⟩ := loadStep_effect_of_allowed (length := length) (c := c) h hq
  exact ⟨t, hi.trans ht, he⟩

/-- Settles O36: the three are one store, of 1, 2 and 4 bytes. -/
theorem narrowStores : Obligations.NarrowStores := by
  intro s c a imm ea
  have hstb : exec (.stb c a imm) s = storeStep .byte 4#32 c ea s := rfl
  have hstw : exec (.stw c a imm) s = storeStep .word 4#32 c ea s := rfl
  have hstd : exec (.std c a imm) s = storeStep .dword 4#32 c ea s := rfl
  exact ⟨effectiveAddress_eq s a imm, completes_of_storeStep hstb, completes_of_storeStep hstw, completes_of_storeStep hstd⟩

/-- Settles O37: the four are the store of O36 past 8 bytes, of 1, 2, 4 and 8 bytes. -/
theorem wideStores : Obligations.WideStores := by
  intro s c a imm ea
  have hstb : exec (.stb64 c a imm) s = storeStep .byte 8#32 c ea s := rfl
  have hstw : exec (.stw64 c a imm) s = storeStep .word 8#32 c ea s := rfl
  have hstd : exec (.std64 c a imm) s = storeStep .dword 8#32 c ea s := rfl
  have hstq : exec (.stq64 c a imm) s = storeStep .qword 8#32 c ea s := rfl
  exact ⟨effectiveAddress_eq s a imm, completes_of_storeStep hstb, completes_of_storeStep hstw, completes_of_storeStep hstd,
    completes_of_storeStep hstq⟩

/-- Settles O38: the three are one load, of 1, 2 and 4 bytes. -/
theorem narrowLoads : Obligations.NarrowLoads := by
  intro s c a imm ea
  have hldb : exec (.ldb c a imm) s = loadStep .byte 4#32 c ea s := rfl
  have hldw : exec (.ldw c a imm) s = loadStep .word 4#32 c ea s := rfl
  have hldd : exec (.ldd c a imm) s = loadStep .dword 4#32 c ea s := rfl
  exact ⟨effectiveAddress_eq s a imm, completes_of_loadStep hldb nofun, completes_of_loadStep hldw nofun,
    completes_of_loadStep hldd nofun⟩

/-- Settles O39: the four are the load of O38 past 8 bytes, of 1, 2, 4 and 8 bytes. -/
theorem wideLoads : Obligations.WideLoads := by
  intro s c a imm hq ea
  have hldb : exec (.ldb64 c a imm) s = loadStep .byte 8#32 c ea s := rfl
  have hldw : exec (.ldw64 c a imm) s = loadStep .word 8#32 c ea s := rfl
  have hldd : exec (.ldd64 c a imm) s = loadStep .dword 8#32 c ea s := rfl
  have hldq : exec (.ldq64 c a imm) s = loadStep .qword 8#32 c ea s := rfl
  exact ⟨effectiveAddress_eq s a imm, completes_of_loadStep hldb nofun, completes_of_loadStep hldw nofun,
    completes_of_loadStep hldd nofun, completes_of_loadStep hldq fun _ => hq⟩

/-- Settles O40: the store of O36 and the load of O38, of 8 bytes. -/
theorem quadWordAccess : Obligations.QuadWordAccess := by
  intro s c a imm hq ea h
  have hstq : exec (.stq c a imm) s = storeStep .qword 4#32 c ea s := rfl
  have hldq : exec (.ldq c a imm) s = loadStep .qword 4#32 c ea s := rfl
  exact ⟨completes_of_storeStep hstq h, completes_of_loadStep hldq (fun _ => hq) h⟩

/-- Settles O41: each of the sixteen is a store or a load of its size, refused as its access is. -/
theorem refusedAccesses : Obligations.RefusedAccesses := by
  intro s c a imm long reason refused ea el
  have short (n : Size) (h : ¬ accessAllowed s ea n) :
      storeStep n shortLength c ea s = .refused reason ∧ loadStep n shortLength c ea s = .refused reason :=
    ⟨storeStep_refused h, loadStep_refused h⟩
  have wide (n : Size) (h : ¬ accessAllowed s el n) :
      storeStep n longLength c el s = .refused reason ∧ loadStep n longLength c el s = .refused reason :=
    ⟨storeStep_refused h, loadStep_refused h⟩
  exact ⟨short .byte, short .word, short .dword, short .qword, wide .byte, wide .word, wide .dword, wide .qword⟩

end Sys2Proof.Machine

/-! The other ALU operations: the bitwise ones of 44_alu.md and 47_ext64.md section 2, the shifts of 45_shifts.md, the conversions of
49_ext_fp.md, and all of the integer ones while FPM = 1. -/

namespace Sys2Proof.Machine

/-! Bitwise operations. -/

/-- A bitwise instruction has its result and clears C and V (R195). -/
theorem completes_bitwise {i : Instr} {s : State} {key : AluKey} {length : Addr} {c : RegNum} {x y r : BitVec s.opWidth}
    (hi : exec i s = aluStep key length c s x y (bitwise r)) (h : s.fpm = false) :
    completes i s (aluEffect c length r false false s) :=
  completes_of_aluStep hi h

/-- Settles O49: the nine are three bitwise operations on a register and a register, an immediate of 14 bits or one of 46. -/
theorem bitwiseOperations : Obligations.BitwiseOperations := by
  intro s c a b imm long h x
  subst x
  rw [operand_eq s a, operand_eq s b, immediate_eq s imm (by decide), immediate_eq s long (by decide)]
  have reg (i : Instr) (fn : BitVec 3) (r : BitVec s.opWidth) (hi : exec i s = aluReg fn c a b s (bitwise r)) :=
    completes_bitwise hi h
  have short (i : Instr) (fn : BitVec 3) (r : BitVec s.opWidth) (hi : exec i s = aluImm fn c a imm s (bitwise r)) :=
    completes_bitwise hi h
  have wide (i : Instr) (fn : BitVec 3) (r : BitVec s.opWidth) (hi : exec i s = aluLong fn c a long s (bitwise r)) :=
    completes_bitwise hi h
  exact ⟨reg (.and c a b) 4 _ rfl, reg (.or c a b) 5 _ rfl, reg (.xor c a b) 6 _ rfl,
    short (.andi c a imm) 4 _ rfl, short (.ori c a imm) 5 _ rfl, short (.xori c a imm) 6 _ rfl,
    wide (.andi64 c a long) 4 _ rfl, wide (.ori64 c a long) 5 _ rfl, wide (.xori64 c a long) 6 _ rfl⟩

/-! Shifts as arithmetic (R220 to R225). -/

/-- Bit k of a number. -/
theorem getLsbD_eq_decide {w : Nat} (x : BitVec w) (k : Nat) : x.getLsbD k = decide (x.toNat / 2 ^ k % 2 = 1) :=
  Nat.testBit_eq_decide_div_mod_eq

/-- A shift to the right is a division. -/
theorem ushiftRight_eq_ofNat {w : Nat} (x : BitVec w) (k : Nat) : x >>> k = BitVec.ofNat w (x.toNat / 2 ^ k) := by
  apply BitVec.eq_of_toNat_eq
  have hlt : x.toNat / 2 ^ k < 2 ^ w := Nat.lt_of_le_of_lt (Nat.div_le_self _ _) x.isLt
  rw [BitVec.toNat_ushiftRight, Nat.shiftRight_eq_div_pow, BitVec.toNat_ofNat, Nat.mod_eq_of_lt hlt]

/-- A shift to the left is a multiplication. -/
theorem shiftLeft_eq_ofNat {w : Nat} (x : BitVec w) (k : Nat) : x <<< k = BitVec.ofNat w (x.toNat * 2 ^ k) := by
  apply BitVec.eq_of_toNat_eq
  rw [BitVec.toNat_shiftLeft, Nat.shiftLeft_eq, BitVec.toNat_ofNat]

/-- A shift to the right that keeps the sign is a division rounded down. -/
theorem sshiftRight_eq_ofInt {w : Nat} (x : BitVec w) (k : Nat) : x.sshiftRight k = BitVec.ofInt w (x.toInt / 2 ^ k) := by
  rw [BitVec.sshiftRight_eq, Int.shiftRight_eq_div_pow]
  norm_cast

/-- A rotation through the carry puts it above half the operand. -/
theorem rotate_eq_ofNat {w : Nat} (x : BitVec (w + 1)) (cin : Bool) :
    (x >>> 1) ||| (if cin then BitVec.twoPow (w + 1) w else 0#(w + 1))
      = BitVec.ofNat (w + 1) (x.toNat / 2 + cin.toNat * 2 ^ w) := by
  have hx : x.toNat / 2 < 2 ^ w := by have := x.isLt; rw [pow_succ] at this; omega
  apply BitVec.eq_of_toNat_eq
  cases cin with
  | false => simp [Nat.shiftRight_eq_div_pow, Nat.mod_eq_of_lt (show x.toNat / 2 < 2 ^ (w + 1) by rw [pow_succ]; omega)]
  | true =>
    have hor := Nat.two_pow_add_eq_or_of_lt hx 1
    rw [mul_one] at hor
    rw [if_pos rfl, BitVec.toNat_or, BitVec.toNat_ushiftRight, Nat.shiftRight_eq_div_pow, pow_one, BitVec.toNat_twoPow,
      BitVec.toNat_ofNat, Bool.toNat_true, one_mul, Nat.or_comm, Nat.mod_eq_of_lt (Nat.pow_lt_pow_right (by decide) (by omega)),
      ← hor, Nat.add_comm, Nat.mod_eq_of_lt (by rw [pow_succ]; omega)]

theorem rotateRight_r {w : Nat} (hw : 0 < w) (x : BitVec w) (cin : Bool) :
    (rotateRight x cin).r = BitVec.ofNat w (x.toNat / 2 + cin.toNat * 2 ^ (w - 1)) := by
  obtain ⟨k, rfl⟩ : ∃ k, w = k + 1 := ⟨w - 1, by omega⟩
  exact rotate_eq_ofNat x cin

/-- A shift instruction completes with its result and the last bit out (R220). -/
theorem completes_shift {i : Instr} {s : State} {fn : BitVec 3} {c a : RegNum} {out : AluOut s.opWidth} {r : BitVec s.opWidth}
    {carry : Bool} (hi : exec i s = shiftReg fn c a s out) (h : s.fpm = false) (hr : out.r = r) (hc : out.c = carry)
    (hv : out.v = false) : completes i s (aluEffect c 4#32 r carry false s) := by
  subst hr hc
  rw [← hv]
  exact completes_of_aluStep hi h

/-- Settles O52: each shift is the division or multiplication, and its carry a bit, of the arithmetic lemmas above. -/
theorem shifts : Obligations.Shifts := by
  intro s c a h x odd
  have hw : 0 < s.opWidth := by rcases s.opWidth_cases with hw | hw <;> omega
  have hx : x = s.regOperand a := operand_eq s a
  have hodd : x.getLsbD 0 = odd := (getLsbD_eq_decide x 0).trans (by simp [odd])
  clear_value x odd
  subst hx
  refine ⟨completes_shift rfl h (ushiftRight_eq_ofNat _ 1) hodd rfl, completes_shift rfl h (sshiftRight_eq_ofInt _ 1) hodd rfl,
    completes_shift rfl h (ushiftRight_eq_ofNat _ 4) (getLsbD_eq_decide _ 3) rfl,
    completes_shift rfl h (rotateRight_r hw _ _) hodd rfl,
    completes_shift rfl h (shiftLeft_eq_ofNat _ 4) (getLsbD_eq_decide _ _) rfl⟩

/-! Floating point. -/

/-- What an instruction does that hands its operands to FpNumerics: its answer where that is supplied, else a refusal (R290,
R295). -/
def answersFloating (i : Instr) (s : State) (length : Addr) (c : RegNum) (out : FpOut s.opWidth) : Prop :=
  (s.cfg.fp = .supplied → completes i s (floatEffect c length out s)) ∧
  (s.cfg.fp = .none → exec i s = .refused .floatingPointNotSpecified)

theorem answersFloating_of_floatingStep {i : Instr} {s : State} {length : Addr} {c : RegNum} {out : FpOut s.opWidth}
    (hi : exec i s = floatingStep length c s out) : answersFloating i s length c out := by
  refine ⟨fun hf => ?_, fun hf => hi.trans (floatingStep_none length c hf out)⟩
  obtain ⟨t, ht, he⟩ := floatingStep_supplied length c hf out
  exact ⟨t, hi.trans ht, he⟩

/-- Settles O57: the three are one operation, on three functions of FpNumerics. -/
theorem conversions : Obligations.Conversions := by
  intro s c a
  rw [operand_eq s a]
  have hitf : exec (.itf c a) s = floatingStep 4#32 c s (Config.fpItf s.opWidth (s.regOperand a)) := rfl
  have hfti : exec (.fti c a) s = floatingStep 4#32 c s (Config.fpFti s.opWidth (s.regOperand a)) := rfl
  have hsqr : exec (.sqr c a) s = floatingStep 4#32 c s (Config.fpSqr s.opWidth (s.regOperand a)) := rfl
  obtain ⟨itf, itf_none⟩ := answersFloating_of_floatingStep hitf
  obtain ⟨fti, fti_none⟩ := answersFloating_of_floatingStep hfti
  obtain ⟨sqr, sqr_none⟩ := answersFloating_of_floatingStep hsqr
  exact ⟨fun hf => ⟨itf hf, fti hf, sqr hf⟩, fun hf => ⟨itf_none hf, fti_none hf, sqr_none hf⟩⟩

/-- What an ALU operation does while FPM = 1 (R291). -/
theorem answersFloating_of_aluStep {i : Instr} {s : State} {key : AluKey} {length : Addr} {c : RegNum} {x y : BitVec s.opWidth}
    {out : AluOut s.opWidth} (h : s.fpm = true) (hi : exec i s = aluStep key length c s x y out) :
    answersFloating i s length c (Config.fpAlu key.opcode key.fn1 s.opWidth x y s.sr.c) :=
  answersFloating_of_floatingStep (hi.trans (aluStep_floating key length c h x y out))

/-- While FPM = 1 a multiplication is an operation of FpNumerics (R287). -/
theorem multiplyStep_floating {s : State} (h : s.fpm = true) (fn : BitVec 3) (withCarryIn : Bool) (c a b : RegNum)
    (m : BitVec s.opWidth) : multiplyStep fn withCarryIn c a b s m = mulDivFloat fn c a b s := by
  rw [multiplyStep, if_pos h]

/-- So is a division. -/
theorem divideStep_floating {s : State} (h : s.fpm = true) (fn : BitVec 3) (c a b : RegNum)
    (stated : BitVec s.opWidth → BitVec s.opWidth → BitVec s.opWidth) :
    divideStep fn c a b s stated = mulDivFloat fn c a b s := by
  rw [divideStep, if_pos h]

/-- Settles O58: 26 of the thirty are an `aluStep` on the operands of their form, and MUL, MLC, DIV and MOD are handed to
FpNumerics before they compute anything. -/
theorem floatingMode : Obligations.FloatingMode := by
  intro s c a b imm long h y answers
  have reg (i : Instr) (fn : BitVec 3) (out : AluOut s.opWidth) (hi : exec i s = aluReg fn c a b s out) :
      answers i 4#32 0b00000 fn y := by
    simp only [answers, y, operand_eq]
    exact answersFloating_of_aluStep h hi
  have short (i : Instr) (fn : BitVec 3) (out : AluOut s.opWidth) (hi : exec i s = aluImm fn c a imm s out) :
      answers i 4#32 0b00001 fn (immediate s imm) := by
    simp only [answers, operand_eq, immediate_eq s imm (by decide)]
    exact answersFloating_of_aluStep h hi
  have shift (i : Instr) (fn : BitVec 3) (out : AluOut s.opWidth) (hi : exec i s = shiftReg fn c a s out) :
      answers i 4#32 0b00010 fn 0 := by
    simp only [answers, operand_eq]
    exact answersFloating_of_aluStep h hi
  have wide (i : Instr) (fn : BitVec 3) (out : AluOut s.opWidth) (hi : exec i s = aluLong fn c a long s out) :
      answers i 8#32 0b10000 fn (immediate s long) := by
    simp only [answers, operand_eq, immediate_eq s long (by decide)]
    exact answersFloating_of_aluStep h hi
  have mulDiv (i : Instr) (fn : BitVec 3) (hi : exec i s = mulDivFloat fn c a b s) : answers i 4#32 0b10110 fn y := by
    simp only [answers, y, operand_eq]
    exact answersFloating_of_floatingStep hi
  exact ⟨reg _ 0 _ rfl, reg _ 1 _ rfl, reg _ 2 _ rfl, reg _ 3 _ rfl, reg _ 4 _ rfl, reg _ 5 _ rfl, reg _ 6 _ rfl,
    short _ 0 _ rfl, short _ 1 _ rfl, short _ 2 _ rfl, short _ 3 _ rfl, short _ 4 _ rfl, short _ 5 _ rfl, short _ 6 _ rfl,
    shift _ 0 _ rfl, shift _ 1 _ rfl, shift _ 2 _ rfl, shift _ 3 _ rfl, shift _ 4 _ rfl,
    wide _ 0 _ rfl, wide _ 1 _ rfl, wide _ 2 _ rfl, wide _ 3 _ rfl, wide _ 4 _ rfl, wide _ 5 _ rfl, wide _ 6 _ rfl,
    mulDiv _ 0 (multiplyStep_floating h ..), mulDiv _ 1 (multiplyStep_floating h ..), mulDiv _ 2 (divideStep_floating h ..),
    mulDiv _ 4 (divideStep_floating h ..)⟩

end Sys2Proof.Machine

/-! Multiplication and division (48_ext_muldiv.md) while FPM = 0. -/

namespace Sys2Proof.Machine

/-! Products. -/

/-- What is said of MC may be weakened. -/
theorem productEffect.imp {c : RegNum} {p : Int} {s t : State} {P Q : BitVec s.opWidth → QWord → Prop}
    (h : productEffect c p s P t) (hpq : ∀ r mc, P r mc → Q r mc) : productEffect c p s Q t := by
  obtain ⟨⟨r, hreg, hsr, hp, hmc⟩, rest⟩ := h
  exact ⟨⟨r, hreg, hsr, hp, hpq r t.mc hmc⟩, rest⟩

/-- The exact value of MUL, whose carry in is 0. -/
theorem exactProduct_zero {w : Nat} (x y : BitVec w) : exactProduct x y 0#w = x.toInt * y.toInt := by
  simp [exactProduct]

/-- The low half of the signed and of the unsigned exact value is one. -/
theorem productLow_eq {w : Nat} (x y m : BitVec w) : productLow x y m = BitVec.ofNat w (x.toNat * y.toNat + m.toNat) := by
  rw [productLow, exactProduct, BitVec.ofInt_add, BitVec.ofInt_mul, BitVec.ofInt_toInt, BitVec.ofInt_toInt, BitVec.ofInt_toInt]
  apply BitVec.eq_of_toNat_eq
  simp

/-- The two halves of the unsigned product and carry in are its exact value (R283): it is below 2^(2w). -/
theorem product_parts_unsigned {w : Nat} (x y m : BitVec w) :
    x.toNat * y.toNat + m.toNat = (productHighUnsigned x y m).toNat * 2 ^ w + (productLow x y m).toNat := by
  have hx := x.isLt
  have hy := y.isLt
  have hm := m.isLt
  have hlt : x.toNat * y.toNat + m.toNat < 2 ^ w * 2 ^ w := by nlinarith
  rw [productLow_eq, productHighUnsigned, BitVec.toNat_ofNat, BitVec.toNat_ofNat,
    Nat.mod_eq_of_lt (Nat.div_lt_of_lt_mul hlt), Nat.div_add_mod']

/-! MC after MUL and MLC, for each of the platform's choices (R283). -/

section

variable {s : State} (withCarryIn : Bool) (x y m : BitVec s.opWidth)

theorem mulCarryOut_signedHigh (h : s.cfg.mulCarry = .signedHigh) :
    s.mulCarryOut withCarryIn x y m = (productHigh x y m).setWidth 64 := by
  simp only [State.mulCarryOut, h]

theorem mulCarryOut_unsignedHigh (h : s.cfg.mulCarry = .unsignedHigh) :
    s.mulCarryOut withCarryIn x y m = (productHighUnsigned x y m).setWidth 64 := by
  simp only [State.mulCarryOut, h]

theorem mulCarryOut_mlcOnly (h : s.cfg.mulCarry = .mlcOnly) :
    s.mulCarryOut withCarryIn x y m = if withCarryIn then (productHigh x y m).setWidth 64 else s.mc := by
  simp only [State.mulCarryOut, h]

theorem mulCarryOut_platform (h : s.cfg.mulCarry = .platform) :
    s.mulCarryOut withCarryIn x y m = (Config.mulCarryOut s.opWidth x y m).setWidth 64 := by
  simp only [State.mulCarryOut, h]

end

/-- Settles O54: MUL and MLC are one multiplication with carry in 0 and MC; MC is then what the platform's choice says, and the
two halves of a product, signed or unsigned, make it up. -/
theorem multiplication : Obligations.Multiplication := by
  intro s c a b h W x y m mul mlc signed unsigned
  have hx : x = s.regOperand a := operand_eq s a
  have hy : y = s.regOperand b := operand_eq s b
  have hmul (P : BitVec W → QWord → Prop) (hP : P (productLow x y 0#W) (s.mulCarryOut false x y 0#W)) : mul P := by
    rw [hx, hy] at hP
    simp only [mul, hx, hy]
    rw [← exactProduct_zero]
    obtain ⟨t, ht, he⟩ := multiplyStep_integer 0 false c a b h 0#W
    exact ⟨t, ht, he.imp fun r mc ⟨hr, hmc⟩ => hr ▸ hmc ▸ hP⟩
  have hmlc (P : BitVec W → QWord → Prop) (hP : P (productLow x y m) (s.mulCarryOut true x y m)) : mlc P := by
    rw [hx, hy] at hP
    simp only [mlc, hx, hy]
    obtain ⟨t, ht, he⟩ := multiplyStep_integer 1 true c a b h m
    exact ⟨t, ht, he.imp fun r mc ⟨hr, hmc⟩ => hr ▸ hmc ▸ hP⟩
  have hsigned (m : BitVec W) : signed (exactProduct x y m) (productLow x y m) ((productHigh x y m).setWidth 64) :=
    ⟨_, rfl, product_parts s.opWidth_cases x y m⟩
  have hunsigned (m : BitVec W) :
      unsigned (x.toNat * y.toNat + m.toNat) (productLow x y m) ((productHighUnsigned x y m).setWidth 64) :=
    ⟨_, rfl, product_parts_unsigned x y m⟩
  refine ⟨fun hc => ⟨hmul _ ?_, hmlc _ ?_⟩, fun hc => ⟨hmul _ ?_, hmlc _ ?_⟩, fun hc => ⟨hmul _ ?_, hmlc _ ?_⟩,
    fun hc => ⟨hmul _ ?_, hmlc _ ?_⟩⟩
  · rw [mulCarryOut_signedHigh _ _ _ _ hc, ← exactProduct_zero]
    exact hsigned 0#W
  · rw [mulCarryOut_signedHigh _ _ _ _ hc]
    exact hsigned m
  · rw [mulCarryOut_unsignedHigh _ _ _ _ hc]
    exact hunsigned 0#W
  · rw [mulCarryOut_unsignedHigh _ _ _ _ hc]
    exact hunsigned m
  · exact mulCarryOut_mlcOnly _ _ _ _ hc
  · rw [mulCarryOut_mlcOnly _ _ _ _ hc]
    exact hsigned m
  · exact mulCarryOut_platform _ _ _ _ hc
  · exact mulCarryOut_platform _ _ _ _ hc

/-! Quotients. -/

/-- The cases without a stated result (R286). -/
theorem divisionOpen_iff {w : Nat} (x y : BitVec w) :
    divisionOpen x y = true ↔ y.toInt = 0 ∨ (x.toInt = -2 ^ (w - 1) ∧ y.toInt = -1) := by
  simp [divisionOpen]

/-- Away from them the quotient is in range (R284). -/
theorem quotient_toInt {w : Nat} {x y : BitVec w} (hw : 0 < w) (h : ¬ (x.toInt = -2 ^ (w - 1) ∧ y.toInt = -1)) :
    (quotient x y).toInt = x.toInt.tdiv y.toInt := by
  have hs : (x.sdiv y).toInt = x.toInt.tdiv y.toInt := by
    apply BitVec.toInt_sdiv_of_ne_or_ne
    by_contra hc
    push Not at hc
    obtain ⟨rfl, rfl⟩ := hc
    refine h ⟨?_, ?_⟩
    · rw [BitVec.toInt_intMin, Nat.mod_eq_of_lt (Nat.pow_lt_pow_right (by decide) (by omega))]
      norm_cast
    · rw [BitVec.neg_one_eq_allOnes, BitVec.toInt_allOnes, if_pos hw]
  rw [quotient, ← hs, BitVec.ofInt_toInt]

/-- The remainder always is (R285). -/
theorem remainder_toInt {w : Nat} (x y : BitVec w) : (remainder x y).toInt = x.toInt.tmod y.toInt := by
  rw [remainder, ← BitVec.toInt_srem, BitVec.ofInt_toInt]

/-- A remainder is smaller than its divisor and 0 or of the dividend's sign. -/
theorem tmod_bound_and_sign (x : Int) {y : Int} (hy : y ≠ 0) :
    |x.tmod y| < |y| ∧ (x.tmod y = 0 ∨ (x.tmod y).sign = x.sign) := by
  constructor
  · rw [Int.abs_eq_natAbs, Int.abs_eq_natAbs, Int.natAbs_tmod]
    exact_mod_cast Nat.mod_lt _ (Int.natAbs_pos.mpr hy)
  · by_cases hd : y ∣ x
    · exact .inl (Int.tmod_eq_zero_of_dvd hd)
    · exact .inr (by rw [Int.sign_tmod, if_neg hd])

/-- An instruction that is a division with a stated result (R284, R285). -/
theorem completes_of_divideStep {i : Instr} {s : State} {fn : BitVec 3} {c a b : RegNum}
    {stated : BitVec s.opWidth → BitVec s.opWidth → BitVec s.opWidth} (hi : exec i s = divideStep fn c a b s stated)
    (h : s.fpm = false) (hd : divisionOpen (s.regOperand a) (s.regOperand b) = false) :
    completes i s (divisionEffect c (stated (s.regOperand a) (s.regOperand b)) s) := by
  obtain ⟨t, ht, he⟩ := divideStep_integer fn c a b h stated (.inl hd)
  rw [divisionResult, hd] at he
  exact ⟨t, hi.trans ht, he⟩

/-- Settles O55: DIV and MOD are one division, of the truncating quotient and its remainder. -/
theorem division : Obligations.Division := by
  intro s c a b h x y hy hover
  have hw : 0 < s.opWidth := by rcases s.opWidth_cases with hw | hw <;> omega
  have hx : x = (s.regOperand a).toInt := by simp only [x, operand_eq]
  have hyv : y = (s.regOperand b).toInt := by simp only [y, operand_eq]
  clear_value x y
  subst hx hyv
  have hd : divisionOpen (s.regOperand a) (s.regOperand b) = false := by
    rw [← Bool.not_eq_true, divisionOpen_iff]
    exact not_or.mpr ⟨hy, hover⟩
  have hdiv : exec (.div c a b) s = divideStep 2 c a b s quotient := rfl
  have hmod : exec (.mod c a b) s = divideStep 4 c a b s remainder := rfl
  have hq := quotient_toInt hw hover
  have hr := remainder_toInt (s.regOperand a) (s.regOperand b)
  refine ⟨_, _, completes_of_divideStep hdiv h hd, completes_of_divideStep hmod h hd, hq, ?_, ?_⟩
  · rw [hq, hr, Int.mul_tdiv_add_tmod]
  · rw [hr]
    exact tmod_bound_and_sign _ hy

/-- A division without a stated result: any value, or refused (R286). -/
theorem divideStep_open {i : Instr} {s : State} {fn : BitVec 3} {c a b : RegNum}
    {stated : BitVec s.opWidth → BitVec s.opWidth → BitVec s.opWidth} (hi : exec i s = divideStep fn c a b s stated)
    (h : s.fpm = false) (hd : divisionOpen (s.regOperand a) (s.regOperand b) = true) :
    (s.cfg.divZero = .anyValue → completes i s fun t => ∃ r : BitVec s.opWidth, divisionEffect c r s t) ∧
    (s.cfg.divZero = .refuse → exec i s = .refused .divisionResultNotSpecified) := by
  refine ⟨fun hz => ?_, fun hz => hi.trans (divideStep_refused fn c a b h stated hd hz)⟩
  obtain ⟨t, ht, he⟩ := divideStep_integer fn c a b h stated (.inr hz)
  exact ⟨t, hi.trans ht, _, he⟩

/-- Settles O56: DIV and MOD are one division, without a stated result. -/
theorem divisionWithoutResult : Obligations.DivisionWithoutResult := by
  intro s c a b h x y hopen
  have hd : divisionOpen (s.regOperand a) (s.regOperand b) = true := by
    rw [divisionOpen_iff, ← operand_eq, ← operand_eq]
    exact hopen
  have hdiv : exec (.div c a b) s = divideStep 2 c a b s quotient := rfl
  have hmod : exec (.mod c a b) s = divideStep 4 c a b s remainder := rfl
  obtain ⟨div, div_refused⟩ := divideStep_open hdiv h hd
  obtain ⟨mod, mod_refused⟩ := divideStep_open hmod h hd
  exact ⟨fun hz => ⟨div hz, mod hz⟩, fun hz => ⟨div_refused hz, mod_refused hz⟩⟩

end Sys2Proof.Machine

/-! Registers (10_state.md section 1) and the instructions of 40_int.md, 41_mvu.md, 46_status_urt.md and 47_ext64.md section 3. -/

namespace Sys2Proof.Machine

/-! Reading a register. -/

theorem getLsbD_ofBool (b : Bool) (k : Nat) : (BitVec.ofBool b).getLsbD k = [b].getD k false := by
  cases k <;> simp

/-- A bit put below others is bit 0, and shifts them up by one. -/
theorem getLsbD_append_ofBool {n : Nat} {x : BitVec n} {l : List Bool} (h : ∀ k, x.getLsbD k = l.getD k false) (b : Bool)
    (k : Nat) : (x ++ BitVec.ofBool b).getLsbD k = (b :: l).getD k false := by
  cases k with
  | zero => rw [BitVec.getLsbD_append, if_pos Nat.zero_lt_one, getLsbD_ofBool, List.getD_cons_zero, List.getD_cons_zero]
  | succ k => simp [BitVec.getLsbD_append, h]

/-- The status bits at their numbers (R35). -/
theorem getLsbD_srBits (s : State) (k : Nat) : s.srBits.getLsbD k
    = [s.sr.z, s.sr.c, s.sr.s, s.sr.v, s.sr.ie, s.sr.vm, s.qwm, s.sr.km, s.fpm].getD k false := by
  have hkm := getLsbD_append_ofBool (getLsbD_ofBool s.fpm) s.sr.km
  have hvm := getLsbD_append_ofBool (getLsbD_append_ofBool hkm s.qwm) s.sr.vm
  have hv := getLsbD_append_ofBool (getLsbD_append_ofBool hvm s.sr.ie) s.sr.v
  have hc := getLsbD_append_ofBool (getLsbD_append_ofBool hv s.sr.s) s.sr.c
  exact getLsbD_append_ofBool hc s.sr.z k

/-- ESR reads the status bits, those of absent extensions as 0, and zeros above (R28, R42, R44). -/
theorem getLsbD_readReg_esr (s : State) {k : Nat} (hk : k < 64) : (s.readReg 25#5).getLsbD k
    = [s.sr.z, s.sr.c, s.sr.s, s.sr.v, s.sr.ie, s.sr.vm, s.qwm, s.sr.km, s.fpm].getD k false := by
  rw [show s.readReg 25#5 = s.srBits.setWidth 64 from rfl, BitVec.getLsbD_setWidth, decide_eq_true hk, Bool.true_and,
    getLsbD_srBits]

/-- EPC reads the pc plus the offset, modulo 2^32 (R29). -/
theorem readReg_epc_toNat (s : State) :
    (s.readReg 31#5).toNat = (s.pc.toNat + (epcOffsetValue s.cfg.epcOffset).toNat) % 2 ^ 32 := by
  rw [show s.readReg 31#5 = s.epc.setWidth 64 from rfl, State.epc, BitVec.toNat_setWidth, BitVec.toNat_add]
  omega

/-- The register width keeps the low 32 or 64 bits (R20, R240). -/
theorem clip_toNat (s : State) (v : QWord) : (s.clip v).toNat = v.toNat % 2 ^ (if s.cfg.ext.q then 64 else 32) := by
  have := v.isLt
  rw [State.clip]
  cases s.cfg.ext.q <;> simp <;> omega

/-- A write changes the reading of no other register, the views of SR and of the pc among them (R24). -/
theorem readReg_writeReg_other (s : State) {i j : RegNum} (v : QWord) (h : j ≠ i) :
    (s.writeReg i v).readReg j = s.readReg j := by
  by_cases h25 : j = 25#5
  · subst h25
    simp [State.readReg, State.srBits, State.fpm, State.qwm]
  by_cases h31 : j = 31#5
  · subst h31
    simp [State.readReg, State.epc]
  rw [State.readReg_writeReg s i v h25 h31, if_neg fun hj => h hj.1]

/-- Settles O18: the constant, the two views, and what a write leaves in a writable register and in the others. -/
theorem registerRead : Obligations.RegisterRead := by
  intro s
  refine ⟨State.readReg_zero s, fun k hk => getLsbD_readReg_esr s hk, ?_, fun i v h0 h25 h31 => ⟨?_, ?_⟩⟩
  · rw [readReg_epc_toNat]
    cases s.cfg.epcOffset <;> rfl
  · have hi : isReadOnly i = false := by simp [isReadOnly, h0, h25, h31]
    rw [State.readReg_writeReg_same s i v hi, clip_toNat]
  · exact fun j hj => readReg_writeReg_other s v hj

/-! Writes that are discarded (R24). -/

theorem writeReg_of_isReadOnly {i : RegNum} (h : isReadOnly i = true) (s : State) (v : QWord) : s.writeReg i v = s := by
  rw [State.writeReg, if_pos h]

/-- Settles O19: with the register write gone, MVU leaves its pc advance and LDD that and its transfers. -/
theorem writesToReadOnlyRegistersAreDiscarded : Obligations.WritesToReadOnlyRegistersAreDiscarded := by
  intro s i v hi
  have hro := (isReadOnly_iff i).mpr hi
  refine ⟨writeReg_of_isReadOnly hro s v, fun imm => ?_, fun a imm ha => ?_⟩
  · rw [show exec (.mvu i imm) s = .next ((s.writeReg i (upperImmediate imm)).advance 4#32) from rfl,
      writeReg_of_isReadOnly hro]
    rfl
  · rw [show exec (.ldd i a imm) s = loadStep .dword 4#32 i (s.effectiveAddress a imm) s from rfl, loadStep,
      memRead_of_allowed ha, orRefuse_ok, writeReg_of_isReadOnly hro]
    rfl

/-! Upper immediates. -/

theorem upperImmediate_eq (imm : BitVec 22) : upperImmediate imm = BitVec.ofNat 64 (imm.toNat * 2 ^ 10) := by
  have := imm.isLt
  apply BitVec.eq_of_toNat_eq
  rw [upperImmediate, BitVec.toNat_setWidth, BitVec.toNat_append, Nat.shiftLeft_eq, BitVec.toNat_zero, Nat.or_zero,
    BitVec.toNat_ofNat]

theorem upperImmediateLong_eq (imm : BitVec 54) : upperImmediateLong imm = BitVec.ofNat 64 (imm.toNat * 2 ^ 10) := by
  have := imm.isLt
  apply BitVec.eq_of_toNat_eq
  rw [upperImmediateLong, BitVec.toNat_append, Nat.shiftLeft_eq, BitVec.toNat_zero, Nat.or_zero, BitVec.toNat_ofNat,
    Nat.mod_eq_of_lt (by omega)]

/-- Settles O34: MVU's value is the immediate times 2^10. -/
theorem mvuResult : Obligations.MvuResult := by
  intro s c imm
  rw [← upperImmediate_eq]
  exact completes_mvu s c imm

/-- Settles O53: MVU64's value fits a register of a processor with `EXT_Q`. -/
theorem wideUpperImmediate : Obligations.WideUpperImmediate := by
  intro s c imm hq
  rw [← upperImmediateLong_eq]
  exact ⟨_, rfl, move_effect longLength (State.clip_of_q hq _)⟩

/-! INT, URT, SSB and CSB. -/

/-- With virtual memory no vector can be read (R78). -/
theorem raiseInterrupt_of_vm (n : VectorNum) (ra : Addr) {s : State} (h : s.sr.vm = true) :
    raiseInterrupt n ra s = .refused .virtualMemoryNotSpecified := by
  rw [raiseInterrupt, memRead, accessCheck_vm h]
  rfl

/-- Settles O31: INT is the one interrupt entry, with the address after it as return address. -/
theorem intTakesItsVector : Obligations.IntTakesItsVector := by
  intro s n
  have hint : exec (.int n) s = raiseInterrupt n (s.pc + 4#32) s := rfl
  split
  case isTrue hv => exact hint.trans (raiseInterrupt_of_vm n _ hv)
  case isFalse hv =>
    obtain ⟨t, ht, he⟩ := raiseInterrupt_effect n (s.pc + 4#32) (by simpa using hv)
    exact ⟨t, hint.trans ht, he⟩

/-- Settles O32: URT is the return from an interrupt, which writes KM and the pc. -/
theorem urtReturns : Obligations.UrtReturns := by
  intro s
  have hurt : exec .urt s = .next s.returnToUser := rfl
  exact ⟨_, hurt, State.returnToUser_pc s, State.returnToUser_sr s, keepsRegs_of_regs (by simp) (by simp), by simp,
    keepsMemory_of_mem (by simp), by simp [keepsRest, keepsParameters]⟩

/-- SSB and CSB write the bit where R233 allows it. -/
theorem completes_status (s : State) (k : StatusBit) (b : Bool) :
    completes (if b then .ssb k else .csb k) s (statusEffect (if s.writable k then s.sr.put k b else s.sr) s) := by
  refine ⟨_, ?_, putStatus_effect s k b⟩
  cases b <;> rfl

/-- Settles O33: R233's table, bit by bit. -/
theorem statusBitInstructions : Obligations.StatusBitInstructions := by
  intro s b
  exact ⟨completes_status s .z b, completes_status s .c b, completes_status s .s b, completes_status s .v b,
    completes_status s .ie b, completes_status s .vm b, completes_status s .qwm b, completes_status s .km b,
    completes_status s .fpm b⟩

end Sys2Proof.Machine

/-! What an instruction can do, with the class of instructions that can do it: the frames of 10_state.md sections 2 to 5 and
20_memory.md section 1. -/

namespace Sys2Proof.Machine

/-- The shapes of next state that an instruction gives, each with what it says of the instruction: `Effect` with its class, its
length and its operands. -/
inductive EffectOf (i : Instr) (s : State) : State → Prop where
  | alu (hi : i.isAlu = true) (c : RegNum) (out : AluOut s.opWidth) : EffectOf i s ((s.writeAlu c out).advance i.length)
  | float (hi : i.isAlu = true) (c : RegNum) (out : FpOut s.opWidth) : EffectOf i s ((s.writeFloat c out).advance i.length)
  | multiply (hi : i.isMultiply = true) (hf : s.fpm = false) (c : RegNum) (r : BitVec s.opWidth) (m : QWord)
      (hm : m = s.mc ∨ ∃ x : BitVec s.opWidth, m = x.setWidth 64) :
      EffectOf i s ({ s.writeMulDiv c r with mc := m }.advance i.length)
  | divide (hi : i.isAlu = true) (c : RegNum) (r : BitVec s.opWidth) : EffectOf i s ((s.writeMulDiv c r).advance i.length)
  | move (c : RegNum) (v : QWord) : EffectOf i s ((s.writeReg c v).advance i.length)
  | load (c : RegNum) (v : QWord) (ts : List Transfer) : EffectOf i s (((s.present ts).writeReg c v).advance i.length)
  | store (hi : i.isStore = true) (a : Addr) (n : Size) (bs : List Byte) :
      EffectOf i s ((s.storeBytes a n bs).advance i.length)
  | jump (hi : i.isTransfer = true) (target : Addr) : EffectOf i s (s.jumpTo target)
  | set (b : StatusBit) (hi : i = .ssb b) : EffectOf i s ((s.putStatus b true).advance i.length)
  | clear (b : StatusBit) (hi : i = .csb b) : EffectOf i s ((s.putStatus b false).advance i.length)
  | enter (n : VectorNum) (hi : i = .int n) (ts : List Transfer) (ra target : Addr) :
      EffectOf i s ((s.present ts).enter ra target)
  | leave (hi : i = .urt) : EffectOf i s s.returnToUser

section

variable {i : Instr} {s t : State} {length : Addr} {c : RegNum}

theorem floatingStep_effectOf {out : FpOut s.opWidth} (hi : i.isAlu = true) (hl : i.length = length)
    (h : floatingStep length c s out = .next t) : EffectOf i s t := by
  subst hl
  unfold floatingStep at h
  split at h
  · cases h
  · exact next_inj h ▸ .float hi c out

theorem aluStep_effectOf {key : AluKey} {a b : BitVec s.opWidth} {out : AluOut s.opWidth} (hi : i.isAlu = true)
    (hl : i.length = length) (h : aluStep key length c s a b out = .next t) : EffectOf i s t := by
  unfold aluStep at h
  split at h
  · exact floatingStep_effectOf hi hl h
  · exact next_inj h ▸ hl ▸ .alu hi c out

theorem multiplyStep_effectOf {fn1 : BitVec 3} {withCarryIn : Bool} {a b : RegNum} {m : BitVec s.opWidth}
    (hi : i.isMultiply = true) (hia : i.isAlu = true) (hl : i.length = shortLength)
    (h : multiplyStep fn1 withCarryIn c a b s m = .next t) : EffectOf i s t := by
  unfold multiplyStep at h
  simp only at h
  split at h
  · exact floatingStep_effectOf hia hl h
  · rename_i hf
    exact next_inj h ▸ hl ▸ .multiply hi (by simpa using hf) c _ _ (mulCarryOut_cases s withCarryIn _ _ _)

theorem divideStep_effectOf {fn1 : BitVec 3} {a b : RegNum} {stated : BitVec s.opWidth → BitVec s.opWidth → BitVec s.opWidth}
    (hi : i.isAlu = true) (hl : i.length = shortLength) (h : divideStep fn1 c a b s stated = .next t) : EffectOf i s t := by
  unfold divideStep at h
  simp only at h
  split at h
  · exact floatingStep_effectOf hi hl h
  · split at h
    · cases h
    · exact next_inj h ▸ hl ▸ .divide hi c _

theorem loadStep_effectOf {n : Size} {ea : Addr} (hl : i.length = length) (h : loadStep n length c ea s = .next t) :
    EffectOf i s t := by
  obtain ⟨v, -, ht⟩ := orRefuse_next h
  exact next_inj ht ▸ hl ▸ .load c v _

theorem storeStep_effectOf {n : Size} {ea : Addr} (hi : i.isStore = true) (hl : i.length = length)
    (h : storeStep n length c ea s = .next t) : EffectOf i s t := by
  obtain ⟨u, hu, ht⟩ := orRefuse_next h
  obtain ⟨-, rfl⟩ := memWrite_ok hu
  exact next_inj ht ▸ hl ▸ .store hi ea n _

theorem condJump_effectOf {taken : Bool} {n : Nat} {imm : BitVec n} (hi : i.isTransfer = true)
    (h : condJump taken length c imm s = .next t) : EffectOf i s t := by
  obtain rfl := next_inj h
  cases taken
  · exact .jump hi _
  · exact .jump hi _

/-- What an instruction does, said once for all of them with its class. -/
theorem exec_effectOf (h : exec i s = .next t) : EffectOf i s t := by
  cases i
  case add | adc | sub | sbc | and | or | xor | addi | adci | subi | sbci | andi | ori | xori | shr | asr | srn | ror | sln
    | addi64 | adci64 | subi64 | sbci64 | andi64 | ori64 | xori64 => exact aluStep_effectOf rfl rfl h
  case jmp | jmp64 => exact next_inj h ▸ .jump rfl _
  case jz | jc | js | jv | jnz | jnc | jns | jnv | jz64 | jc64 | js64 | jv64 | jnz64 | jnc64 | jns64 | jnv64 =>
    exact condJump_effectOf rfl h
  case stb | stw | std | stq | stb64 | stw64 | std64 | stq64 => exact storeStep_effectOf rfl rfl h
  case ldb | ldw | ldd | ldq | ldb64 | ldw64 | ldd64 | ldq64 => exact loadStep_effectOf rfl h
  case mvu c imm => exact next_inj h ▸ .move c (upperImmediate imm)
  case mvu64 c imm => exact next_inj h ▸ .move c (upperImmediateLong imm)
  case int n =>
    obtain ⟨v, -, rfl⟩ := raiseInterrupt_next h
    exact .enter n rfl _ _ _
  case ssb b => exact next_inj h ▸ .set b rfl
  case csb b => exact next_inj h ▸ .clear b rfl
  case urt => exact next_inj h ▸ .leave rfl
  case mul | mlc => exact multiplyStep_effectOf rfl rfl rfl h
  case div | mod => exact divideStep_effectOf rfl rfl h
  case itf | fti | sqr => exact floatingStep_effectOf rfl rfl h

theorem isAlu_of_isMultiply (h : i.isMultiply = true) : i.isAlu = true := by
  cases i <;> cases h <;> rfl

/-! The status register (R37). -/

/-- SR after SSB and CSB, which write a permitted bit. -/
theorem putStatus_sr_cases (s : State) (b : StatusBit) (value : Bool) :
    (s.putStatus b value).sr = s.sr ∨ (s.writable b = true ∧ (s.putStatus b value).sr = s.sr.put b value) := by
  rw [State.putStatus_sr]
  cases s.writable b
  · exact .inl rfl
  · exact .inr ⟨rfl, rfl⟩

/-- The writers of SR among the instructions, each with the bits it writes. -/
theorem exec_sr (h : exec i s = .next t) :
    t.sr = s.sr ∨
    (i.isAlu = true ∧ t.sr = { s.sr with z := t.sr.z, c := t.sr.c, s := t.sr.s, v := t.sr.v }) ∨
    (∃ b, i = .ssb b ∧ s.writable b = true ∧ t.sr = s.sr.put b true) ∨
    (∃ b, i = .csb b ∧ s.writable b = true ∧ t.sr = s.sr.put b false) ∨
    ((∃ n, i = .int n) ∧ t.sr = { s.sr with km := true }) ∨
    (i = .urt ∧ t.sr = { s.sr with km := false }) := by
  cases exec_effectOf h with
  | alu hi c out => exact .inr (.inl ⟨hi, by simp⟩)
  | float hi c out => exact .inr (.inl ⟨hi, by simp⟩)
  | multiply hi hf c r m hm => exact .inr (.inl ⟨isAlu_of_isMultiply hi, by simp⟩)
  | divide hi c r => exact .inr (.inl ⟨hi, by simp⟩)
  | move c v => exact .inl (by simp)
  | load c v ts => exact .inl (by simp)
  | store hi a n bs => exact .inl (by simp)
  | jump hi target => exact .inl (by simp)
  | set b hi =>
    rcases putStatus_sr_cases s b true with hsr | ⟨hw, hsr⟩
    · exact .inl hsr
    · exact .inr (.inr (.inl ⟨b, hi, hw, hsr⟩))
  | clear b hi =>
    rcases putStatus_sr_cases s b false with hsr | ⟨hw, hsr⟩
    · exact .inl hsr
    · exact .inr (.inr (.inr (.inl ⟨b, hi, hw, hsr⟩)))
  | enter n hi ts ra target => exact .inr (.inr (.inr (.inr (.inl ⟨⟨n, hi⟩, by simp⟩))))
  | leave hi => exact .inr (.inr (.inr (.inr (.inr ⟨hi, by simp⟩))))

/-- A step that takes an interrupt is the entry, in the state after the check. -/
theorem step_of_interrupt {n : VectorNum} (h : (consult s).1 = some n) :
    step s = raiseInterrupt n (consult s).2.pc (consult s).2 := by
  unfold step
  split
  case h_1 m u hc => rw [hc] at h ⊢; cases h; rfl
  case h_2 u hc => rw [hc] at h; cases h

/-- Settles O20: the instructions' writers of SR, the entry's, and what reset leaves. -/
theorem statusRegisterWriters : Obligations.StatusRegisterWriters := by
  refine ⟨fun i s t h => exec_sr h, fun s t n hn h => ?_, fun s t h => ?_⟩
  · obtain ⟨later, hlater⟩ := consult_state s
    rw [step_of_interrupt hn, hlater] at h
    obtain ⟨v, -, rfl⟩ := raiseInterrupt_next h
    simp
  · obtain ⟨v, -, rfl⟩ := resetEvent_next h
    simp

/-! MC, memory and the pc. -/

/-- Settles O21: of all the effects only a multiplication's, which there is while FPM = 0, writes MC. -/
theorem mulCarryRegisterWriters : Obligations.MulCarryRegisterWriters := by
  intro i s t h hne
  cases exec_effectOf h with
  | multiply hi hf c r m hm => exact ⟨hi, hf⟩
  | alu | float | divide | move | load | store | jump | set | clear | enter | leave => exact absurd (by simp) hne

/-- Settles O22: of all the effects only a store's writes memory. -/
theorem onlyStoresWriteMemory : Obligations.OnlyStoresWriteMemory := by
  refine ⟨fun i s t h hne => ?_, fun s t n hn h => ?_⟩
  · cases exec_effectOf h with
    | store hi a n bs => exact hi
    | alu | float | multiply | divide | move | load | jump | set | clear | enter | leave => exact absurd (by simp) hne
  · obtain ⟨later, hlater⟩ := consult_state s
    rw [step_of_interrupt hn, hlater] at h
    obtain ⟨v, -, rfl⟩ := raiseInterrupt_next h
    simp

/-- Settles O23: but for the effects of jumps, INT and URT every one ends in the pc advance. -/
theorem onlyTransfersDepartFromTheNextInstruction : Obligations.OnlyTransfersDepartFromTheNextInstruction := by
  intro i s t h hi
  cases exec_effectOf h with
  | jump hj target => rw [hi] at hj; cases hj
  | enter n hn ts ra target => rw [hn] at hi; cases hi
  | leave hu => rw [hu] at hi; cases hi
  | alu | float | multiply | divide | move | load | store | set | clear => simp

/-! The parameters (R7). -/

/-- No instruction writes a parameter. -/
theorem exec_cfg (h : exec i s = .next t) : t.cfg = s.cfg := by
  cases exec_effect h <;> simp

theorem consult_cfg (s : State) : (consult s).2.cfg = s.cfg := by
  obtain ⟨later, hlater⟩ := consult_state s
  rw [hlater]

theorem step_cfg (h : step s = .next t) : t.cfg = s.cfg := by
  rcases step_next h with ⟨n, -, hraise⟩ | ⟨i, -, -, hexec⟩
  · obtain ⟨v, -, rfl⟩ := raiseInterrupt_next hraise
    simp [consult_cfg]
  · rw [exec_cfg hexec, State.fetched_cfg, consult_cfg]

/-- Settles O28: neither an interrupt entry nor an instruction writes a parameter. -/
theorem stepKeepsTheParameters : Obligations.StepKeepsTheParameters :=
  fun _ _ h => step_cfg h

end

end Sys2Proof.Machine

/-! The step (60_exceptions.md section 1): the interrupt check, the fetch and what is refused there, an instruction stored and run. -/

namespace Sys2Proof.Machine

/-! The step without an interrupt. -/

/-- The fetch and the instruction of a step in which no interrupt is taken (R300). -/
def stepUninterrupted (s : State) : Host.Outcome State Fault Refusal := orRefuse (fetch s) fun i => exec i (s.fetched i)

theorem step_of_no_interrupt {s t : State} (h : consult s = (none, t)) : step s = stepUninterrupted t := by
  rw [step, h]; rfl

theorem consult_of_ie_false {s : State} (h : s.sr.ie = false) : consult s = (none, s) := by
  simp [consult, h]

theorem step_of_ie_false {s : State} (h : s.sr.ie = false) : step s = stepUninterrupted s :=
  step_of_no_interrupt (consult_of_ie_false h)

/-- The state after the check, in terms of the answers it leaves. -/
theorem consult_awaiting (s : State) : ∃ q, (consult s).2 = s.awaiting q := consult_state s

/-- An uninterrupted step is blind to the platform's answers to come. -/
theorem stepUninterrupted_awaiting (q : List (Option VectorNum)) (s : State) :
    stepUninterrupted (s.awaiting q) = outcomeAwaiting q (stepUninterrupted s) := by
  unfold stepUninterrupted
  rw [fetch_awaiting]
  cases fetch s with
  | error r => rfl
  | ok i => exact exec_awaiting q i (s.fetched i)

/-- An uninterrupted step runs what the two words at the pc decode to. -/
theorem stepUninterrupted_of_decode {s : State} {i : Instr} (hf : fetchAllowed s s.pc)
    (hd : decode s.cfg.ext [wordAt s s.pc, wordAt s (s.pc + 4#32)] = .ok i) : stepUninterrupted s = exec i (s.fetched i) := by
  rw [stepUninterrupted, fetch_of_allowed hf, decodeOrRefuse, hd]; rfl

/-- It is refused where they decode to nothing (R112, R114). -/
theorem stepUninterrupted_of_decode_error {s : State} {e : DecodeError} (hf : fetchAllowed s s.pc)
    (hd : decode s.cfg.ext [wordAt s s.pc, wordAt s (s.pc + 4#32)] = .error e) :
    stepUninterrupted s = .refused (.reservedEncoding e) := by
  rw [stepUninterrupted, fetch_of_allowed hf, decodeOrRefuse, hd]; rfl

/-- It is refused where the word at the pc cannot be fetched. -/
theorem stepUninterrupted_of_fetchWord_error {s : State} {r : Refusal} (h : fetchWord s s.pc = .error r) :
    stepUninterrupted s = .refused r := by
  rw [stepUninterrupted, fetch, h]; rfl

/-- Settles O6: the check leaves all but the answers as it is, and the fetch all but the transfers presented. -/
theorem stepRunsTheDecodedInstruction : Obligations.StepRunsTheDecodedInstruction := by
  intro s t i hc hf hd
  obtain ⟨q, hq⟩ := consult_awaiting s
  rw [hc] at hq
  refine ⟨(step_of_no_interrupt hc).trans (stepUninterrupted_of_decode hf hd), ?_, fun hie => ?_, rfl,
    State.fetched_presented t i, State.fetched_inMemory⟩
  · subst hq; rfl
  · rw [consult_of_ie_false hie] at hc
    cases hc; rfl

/-! Refusals at the fetch. -/

/-- Settles O8: by O4 a reserved word decodes to nothing. -/
theorem stepRefusesReservedEncoding : Obligations.StepRefusesReservedEncoding := by
  intro s hie hf hres
  have hnone := (reservedEncodings s.cfg.ext _ (wordAt s (s.pc + 4#32))).not.mpr (not_not.mpr hres)
  cases hd : decode s.cfg.ext [wordAt s s.pc, wordAt s (s.pc + 4#32)] with
  | ok i => exact absurd ⟨i, hd⟩ hnone
  | error e => exact ⟨e, (step_of_ie_false hie).trans (stepUninterrupted_of_decode_error hf hd)⟩

/-- Settles O9: the check leaves the pc and the parameters, so the fetch is misaligned after it. -/
theorem misalignedFetchIsRefused : Obligations.MisalignedFetchIsRefused := by
  intro s hc hvm hmis hpc
  obtain ⟨q, hq⟩ := consult_awaiting s
  have hword : fetchWord s s.pc = .error .misalignedFetch := by simp [fetchWord, hvm, hmis, hpc]
  rw [step_of_no_interrupt (Prod.ext hc hq)]
  exact stepUninterrupted_of_fetchWord_error ((fetchWord_awaiting q s s.pc).trans hword)

/-- Settles O10: with VM = 1 neither the vector nor the word at the pc can be read. -/
theorem virtualMemoryRefusesEveryStep : Obligations.VirtualMemoryRefusesEveryStep := by
  intro s hvm
  obtain ⟨q, hq⟩ := consult_awaiting s
  cases hc : (consult s).1 with
  | some n => exact (step_of_interrupt hc).trans (raiseInterrupt_of_vm n _ (by rw [hq]; exact hvm))
  | none =>
    have hword : fetchWord s s.pc = .error .virtualMemoryNotSpecified := by simp [fetchWord, hvm]
    rw [step_of_no_interrupt (Prod.ext hc hq)]
    exact stepUninterrupted_of_fetchWord_error ((fetchWord_awaiting q s s.pc).trans hword)

/-! Interrupt requests. -/

/-- Settles O11: the request presented next is taken out of the list, and entered with the pc as return address. -/
theorem hardwareInterruptIsTaken : Obligations.HardwareInterruptIsTaken := by
  intro s n later hie hvm hreq
  have hc : consult s = (some n, s.awaiting later) := by simp [consult, hie, hreq, State.awaiting]
  obtain ⟨t, ht, he, hlater⟩ := raiseInterrupt_effect n s.pc (s := s.awaiting later) hvm
  refine ⟨t, ?_, he, hlater⟩
  rw [step_of_interrupt (by rw [hc]), hc]
  exact ht

/-- Settles O12: with IE = 0 the step is an uninterrupted one, which is blind to the requests. -/
theorem maskedRequestsHaveNoInfluence : Obligations.MaskedRequestsHaveNoInfluence := by
  intro s q hie
  have hstep : step (s.awaiting q) = outcomeAwaiting q (step s) := by
    rw [step_of_ie_false hie, ← stepUninterrupted_awaiting]
    exact step_of_ie_false hie
  refine ⟨fun t ht => ?_, fun r hr => ?_⟩
  · rw [ht] at hstep; exact hstep
  · rw [hr] at hstep; exact hstep

/-! An instruction stored at the pc (R64, R83). -/

/-- The state with bytes written to memory at `a`, as `State.withCode` and `State.withFetchWord` write theirs. -/
def State.withBytes (s : State) (a : Addr) (bs : List Byte) : State :=
  { s with mem := s.mem.writeBytes (isPlain s.cfg) a bs }

/-- Bytes written to plain memory are read there. -/
theorem readBytes_withBytes {s : State} {a : Addr} {bs : List Byte} (hin : inMemory s a bs.length) (hl : bs.length ≤ 2 ^ 32)
    {off n : Nat} (hn : off + n ≤ bs.length) :
    (s.withBytes a bs).readBytes (a + BitVec.ofNat 32 off) n = (bs.drop off).take n := by
  rw [readBytes_eq_bytesAt]
  apply List.ext_getElem
  · simp [bytesAt]; omega
  · intro k hk hk'
    have hlt : off + k < bs.length := by simp [bytesAt] at hk; omega
    have hplain := hin (off + k) hlt
    have hread : (s.withBytes a bs).mem.read (a + BitVec.ofNat 32 (off + k)).toNat = bs.getD (off + k) 0 :=
      Memory.read_writeBytes_at s.mem (isPlain s.cfg) a bs hl (off + k) hlt hplain
    simp only [bytesAt, List.getElem_map, List.getElem_range, List.getElem_take, List.getElem_drop, BitVec.add_assoc,
      ← BitVec.ofNat_add]
    rw [State.byteAt_plain (by exact hplain)]
    simpa [List.getD_eq_getElem?_getD, hlt] using hread

/-- A word's four bytes read back make the word. -/
theorem wordAt_of_readBytes {s : State} {a : Addr} {w : DWord}
    (h : s.readBytes a 4 = splitBytes s.cfg.endian 4 (w.setWidth 64)) : wordAt s a = w := by
  rw [wordAt_eq_joinBytes, h, joinBytes_splitBytes]
  apply BitVec.eq_of_toNat_eq
  simp

theorem bytesOfWords_length (e : Endian) (ws : List DWord) : (bytesOfWords e ws).length = 4 * ws.length := by
  induction ws with
  | nil => rfl
  | cons w ws ih => simp [bytesOfWords, ih]; omega

/-- The bytes of word j of several. -/
theorem bytesOfWords_word (e : Endian) (ws : List DWord) (j : Nat) (hj : j < ws.length) :
    ((bytesOfWords e ws).drop (4 * j)).take 4 = splitBytes e 4 (ws[j].setWidth 64) := by
  induction ws generalizing j with
  | nil => simp at hj
  | cons w ws ih =>
    have hl : (splitBytes e 4 (w.setWidth 64)).length = 4 := splitBytes_length _ _ _
    cases j with
    | zero => simp [bytesOfWords, hl]
    | succ j =>
      rw [bytesOfWords, List.drop_append, List.drop_eq_nil_of_le (by omega), hl, show 4 * (j + 1) - 4 = 4 * j by omega,
        List.nil_append, ih j (by simpa using hj), List.getElem_cons_succ]

/-- Words stored in plain memory are read there, in either byte order (R64). -/
theorem wordAt_withBytes {s : State} {a : Addr} {ws : List DWord} (hin : inMemory s a (4 * ws.length)) (hl : ws.length ≤ 2)
    (j : Nat) (hj : j < ws.length) :
    wordAt (s.withBytes a (bytesOfWords s.cfg.endian ws)) (a + BitVec.ofNat 32 (4 * j)) = ws[j] := by
  have hbytes := bytesOfWords_length s.cfg.endian ws
  apply wordAt_of_readBytes
  rw [readBytes_withBytes (by rwa [hbytes]) (by omega) (by omega)]
  exact bytesOfWords_word s.cfg.endian ws j hj

/-- A code has as many words as its instruction has (R90). -/
theorem encode_length (i : Instr) : 4 * (encode i).length = i.length.toNat := by
  have hi := code_decodesTo i
  unfold encode Instr.length
  cases hc : i.code with
  | short w =>
    obtain ⟨-, hdec⟩ := hc ▸ hi
    rw [(decodeShort_row hdec).1]; rfl
  | long w =>
    obtain ⟨-, -, hdec⟩ := hc ▸ hi
    rw [(decodeLong_row hdec).1]; rfl

/-- No code has more than two words. -/
theorem encode_length_le (i : Instr) : (encode i).length ≤ 2 := by
  have hlen := encode_length i
  unfold Instr.length at hlen
  split at hlen <;> simp at hlen <;> omega

/-- The two words at the pc of a stored instruction begin with its code. -/
theorem encode_prefix_withCode {s : State} {i : Instr} (hin : inMemory s s.pc i.length.toNat) :
    encode i <+: [wordAt (s.withCode i) s.pc, wordAt (s.withCode i) (s.pc + 4#32)] := by
  have hle := encode_length_le i
  have hword := wordAt_withBytes (encode_length i ▸ hin) hle
  rw [List.prefix_iff_getElem?]
  intro j hj
  have hj' : j = 0 ∨ j = 1 := by omega
  rcases hj' with rfl | rfl
  · have h0 := hword 0 hj
    rw [Nat.mul_zero, BitVec.add_zero] at h0
    exact congrArg some h0
  · exact congrArg some (hword 1 hj)

theorem State.withCode_pc (s : State) (i : Instr) : (s.withCode i).pc = s.pc := rfl
theorem State.withCode_cfg (s : State) (i : Instr) : (s.withCode i).cfg = s.cfg := rfl

/-- Settles O7: the words at the pc begin with the code, so by O1 they decode to the instruction, and their fetch, in plain
memory, changes nothing. -/
theorem storedInstructionRuns : Obligations.StoredInstructionRuns := by
  intro s i hi hf hie hin
  obtain ⟨later, hwords⟩ := encode_prefix_withCode hin
  have hdec : decode s.cfg.ext [wordAt (s.withCode i) s.pc, wordAt (s.withCode i) (s.pc + 4#32)] = .ok i :=
    hwords ▸ decodeOfEncode s.cfg.ext i later hi
  rw [← s.withCode_pc i, ← s.withCode_cfg i] at hdec
  have hfetched : (s.withCode i).fetched i = s.withCode i := State.fetched_inMemory hin
  rw [step_of_ie_false (s := s.withCode i) hie, stepUninterrupted_of_decode (s := s.withCode i) hf hdec, hfetched]

end Sys2Proof.Machine

/-! What every step keeps: the control bits in user mode, the mode but at its gates (10_state.md section 3), the invariant of the
state, and the end of a run (60_exceptions.md section 9); and the reset event (10_state.md section 5). -/

namespace Sys2Proof.Machine

/-! The control bits and the mode. -/

/-- The state in which the instruction of a step executes has the registers, SR, pc and memory of the state before the step. -/
theorem step_exec {s t : State} (h : step s = .next t) (hc : (consult s).1 = none) :
    ∃ q i, fetch s = .ok i ∧ exec i ((s.awaiting q).fetched i) = .next t := by
  obtain ⟨q, hq⟩ := consult_awaiting s
  rw [step_of_no_interrupt (Prod.ext hc hq)] at h
  obtain ⟨i, hi, ht⟩ := orRefuse_next h
  exact ⟨q, i, (fetch_awaiting q s).symm.trans hi, ht⟩

/-- An entry that completes has the effect of one (R305). -/
theorem raiseInterrupt_next_effect {n : VectorNum} {ra : Addr} {s t : State} (h : raiseInterrupt n ra s = .next t) :
    entryEffect n ra s t := by
  cases hv : s.sr.vm with
  | true => rw [raiseInterrupt_of_vm n ra hv] at h; cases h
  | false =>
    obtain ⟨u, hu, he, -⟩ := raiseInterrupt_effect n ra hv
    rw [hu] at h
    exact next_inj h ▸ he

/-- A step that took an interrupt has the effect of the entry with the pc as return address (R300, R305). -/
theorem step_interrupt_effect {s t : State} {n : VectorNum} (h : step s = .next t) (hc : (consult s).1 = some n) :
    entryEffect n s.pc s t := by
  obtain ⟨q, hq⟩ := consult_awaiting s
  rw [step_of_interrupt hc, hq] at h
  have he : entryEffect n s.pc (s.awaiting q) t := raiseInterrupt_next_effect h
  exact he

/-- A bit that SSB or CSB may write in user mode is none of IE, VM and QWM (R233). -/
theorem put_keeps_control {s : State} {b : StatusBit} (hw : s.writable b = true) (hkm : s.sr.km = false) (value : Bool) :
    (s.sr.put b value).ie = s.sr.ie ∧ (s.sr.put b value).vm = s.sr.vm ∧ (s.sr.put b value).qwm = s.sr.qwm := by
  cases b
  case z | c | s | v | fpm => exact ⟨rfl, rfl, rfl⟩
  case ie | vm | qwm => rw [State.writable, hkm] at hw; cases hw
  case km => cases hw

/-- SSB and CSB never write KM (R233). -/
theorem put_keeps_km {s : State} {b : StatusBit} (hw : s.writable b = true) (value : Bool) :
    (s.sr.put b value).km = s.sr.km := by
  cases b
  case km => cases hw
  all_goals rfl

/-- Settles O24: of the writers of SR only SSB and CSB could write IE, VM or QWM, and none of the three is theirs in user mode. -/
theorem userModeCannotChangeControlBits : Obligations.UserModeCannotChangeControlBits := by
  intro s t hkm h
  cases hc : (consult s).1 with
  | some n =>
    obtain ⟨-, hsr, -⟩ := step_interrupt_effect h hc
    simp [hsr]
  | none =>
    obtain ⟨q, i, -, hexec⟩ := step_exec h hc
    rcases exec_sr hexec with hsr | ⟨-, hsr⟩ | ⟨b, -, hw, hsr⟩ | ⟨b, -, hw, hsr⟩ | ⟨-, hsr⟩ | ⟨-, hsr⟩
    · simp [hsr, State.awaiting]
    · rw [hsr]; exact ⟨rfl, rfl, rfl⟩
    · rw [hsr]; exact put_keeps_control hw hkm true
    · rw [hsr]; exact put_keeps_control hw hkm false
    · rw [hsr]; exact ⟨rfl, rfl, rfl⟩
    · rw [hsr]; exact ⟨rfl, rfl, rfl⟩

/-- The instructions that write KM: INT sets it and URT clears it. -/
theorem exec_km {i : Instr} {s t : State} (h : exec i s = .next t) :
    t.sr.km = s.sr.km ∨ ((∃ n, i = .int n) ∧ t.sr.km = true) ∨ (i = .urt ∧ t.sr.km = false) := by
  rcases exec_sr h with hsr | ⟨-, hsr⟩ | ⟨b, -, hw, hsr⟩ | ⟨b, -, hw, hsr⟩ | ⟨hi, hsr⟩ | ⟨hi, hsr⟩ <;> rw [hsr]
  · exact .inl rfl
  · exact .inl rfl
  · exact .inl (put_keeps_km hw true)
  · exact .inl (put_keeps_km hw false)
  · exact .inr (.inl ⟨hi, rfl⟩)
  · exact .inr (.inr ⟨hi, rfl⟩)

/-- An entry leaves the return address in ERT. -/
theorem entryEffect.readReg_ert {n : VectorNum} {ra : Addr} {s t : State} (h : entryEffect n ra s t) :
    t.readReg 24#5 = ra.setWidth 64 :=
  h.1.readReg_eq (c := 24#5) (by decide)

/-- Settles O25: KM is set by an interrupt entry alone, the hardware's or INT's, and cleared by URT alone. -/
theorem modeChangesOnlyAtTheGates : Obligations.ModeChangesOnlyAtTheGates := by
  intro s t h
  cases hc : (consult s).1 with
  | some n =>
    have he := step_interrupt_effect h hc
    have hert := he.readReg_ert
    obtain ⟨-, hsr, hpc, -⟩ := he
    refine ⟨fun _ _ => ⟨n, .inl ⟨rfl, hpc, hert⟩⟩, fun _ hkm => ?_⟩
    rw [hsr] at hkm; cases hkm
  | none =>
    obtain ⟨q, i, hfetch, hexec⟩ := step_exec h hc
    have hkm := exec_km hexec
    refine ⟨fun hs ht => ?_, fun hs ht => ?_⟩
    · rcases hkm with hkm | ⟨⟨n, rfl⟩, -⟩ | ⟨-, hkm⟩
      · rw [ht] at hkm; cases hs.symm.trans hkm.symm
      · have he : entryEffect n (s.pc + 4#32) _ t := raiseInterrupt_next_effect hexec
        have hert := he.readReg_ert
        obtain ⟨-, -, hpc, -⟩ := he
        exact ⟨n, .inr ⟨rfl, hfetch, hpc, hert⟩⟩
      · rw [ht] at hkm; cases hkm
    · rcases hkm with hkm | ⟨-, hkm⟩ | ⟨rfl, -⟩
      · rw [ht] at hkm; cases hs.symm.trans hkm.symm
      · rw [ht] at hkm; cases hkm
      · obtain rfl := next_inj hexec
        exact ⟨rfl, hfetch, rfl⟩

/-! The invariant: each update of the state keeps it. -/

/-- Without `EXT_Q` a clipped value has 32 bits. -/
theorem clip_lt {s : State} (h : s.cfg.ext.q = false) (v : QWord) : (s.clip v).toNat < 2 ^ 32 := by
  rw [clip_toNat, h]
  exact Nat.mod_lt _ (by decide)

namespace State.WellFormed

variable {s : State}

theorem present (h : s.WellFormed) (ts : List Transfer) : (s.present ts).WellFormed := { h with }

theorem awaiting (h : s.WellFormed) (q : List (Option VectorNum)) : (s.awaiting q).WellFormed :=
  { h with }

theorem jumpTo (h : s.WellFormed) (target : Addr) : (s.jumpTo target).WellFormed := { h with }

theorem advance (h : s.WellFormed) (n : Addr) : (s.advance n).WellFormed := h.jumpTo _

theorem draw (h : s.WellFormed) : s.draw.WellFormed := { h with }

theorem writeFlags (h : s.WellFormed) (z c n v : Bool) : (s.writeFlags z c n v).WellFormed :=
  { h with }

/-- A register holds a clipped value. -/
theorem writeReg (h : s.WellFormed) (c : RegNum) (v : QWord) : (s.writeReg c v).WellFormed := by
  unfold State.writeReg
  split
  · exact h
  · refine { h with registers := fun hq k => ?_ }
    by_cases hk : (place c).val = k.val
    · simpa [Fin.getElem_fin, ← hk] using clip_lt (s := s) hq v
    · simpa [Fin.getElem_fin, Vector.getElem_set_ne _ _ hk] using h.registers hq k

theorem writeAlu (h : s.WellFormed) (c : RegNum) {w : Nat} (out : AluOut w) : (s.writeAlu c out).WellFormed :=
  (h.writeReg c _).writeFlags ..

theorem writeFloat (h : s.WellFormed) (c : RegNum) {w : Nat} (out : FpOut w) : (s.writeFloat c out).WellFormed :=
  (h.writeReg c _).writeFlags ..

theorem writeMulDiv (h : s.WellFormed) (c : RegNum) {w : Nat} (r : BitVec w) : (s.writeMulDiv c r).WellFormed :=
  (h.writeAlu c _).draw

/-- MC holds W bits, on a processor with `EXT_M`. -/
theorem withMc (h : s.WellFormed) (hm : s.cfg.ext.m = true) {mc : QWord} (hmc : s.cfg.ext.q = false → mc.toNat < 2 ^ 32) :
    { s with mc := mc }.WellFormed :=
  { h with carry := hmc, noMc := fun hm' => by cases hm.symm.trans hm' }

theorem storeBytes (h : s.WellFormed) (a : Addr) (n : Size) (bs : List Byte) : (s.storeBytes a n bs).WellFormed :=
  { h with memory := Memory.writeBytes_wf h.memory _ a bs }

/-- QWM and FPM are written only where they exist (R233). -/
theorem putStatus (h : s.WellFormed) (b : StatusBit) (value : Bool) : (s.putStatus b value).WellFormed := by
  unfold State.putStatus
  split
  case isFalse => exact h
  case isTrue hw =>
    refine { h with noQwm := fun hq => ?_, noFpm := fun hf => ?_ }
    · cases b
      case qwm => simp [State.writable, show s.cfg.ext.q = false from hq] at hw
      all_goals exact h.noQwm hq
    · cases b
      case fpm => simp [State.writable, show s.cfg.ext.f = false from hf] at hw
      all_goals exact h.noFpm hf

theorem enter (h : s.WellFormed) (ra target : Addr) : (s.enter ra target).WellFormed :=
  { h.writeReg ert (ra.setWidth 64) with }

theorem returnToUser (h : s.WellFormed) : s.returnToUser.WellFormed := { h with }

end State.WellFormed

/-- Every effect keeps the invariant, where a multiplication is on a processor with `EXT_M`. -/
theorem EffectOf.wellFormed {i : Instr} {s t : State} (he : EffectOf i s t) (h : s.WellFormed) (hi : i.WellFormed s.cfg.ext) :
    t.WellFormed := by
  cases he with
  | alu _ c out => exact (h.writeAlu c out).advance _
  | float _ c out => exact (h.writeFloat c out).advance _
  | multiply hmul _ c r m hm =>
    have hext : s.cfg.ext.m = true := by cases i <;> cases hmul <;> exact hi
    refine ((h.writeMulDiv c r).withMc (by simpa using hext) fun hq => ?_).advance _
    rw [State.writeMulDiv_cfg] at hq
    rcases hm with rfl | ⟨x, rfl⟩
    · exact h.carry hq
    · rw [← State.clip_setWidth_opWidth]
      exact clip_lt hq _
  | divide _ c r => exact (h.writeMulDiv c r).advance _
  | move c v => exact (h.writeReg c v).advance _
  | load c v ts => exact ((h.present ts).writeReg c v).advance _
  | store _ a n bs => exact (h.storeBytes a n bs).advance _
  | jump _ target => exact h.jumpTo target
  | set b => exact (h.putStatus b true).advance _
  | clear b => exact (h.putStatus b false).advance _
  | enter _ _ ts ra target => exact (h.present ts).enter ra target
  | leave => exact h.returnToUser

/-- A single word that decodes is short, so that a word after it does not matter (R92). -/
theorem decode_of_decode_singleton {x : Extensions} {w : DWord} {i : Instr} (h : decode x [w] = .ok i) (w' : DWord) :
    decode x [w, w'] = .ok i := by
  cases hl : isLongOpcode (opcodeOf w) with
  | true => cases hq : x.q <;> simp [decode, hl, hq] at h
  | false => simpa [decode, hl] using h

/-- What the decoder reads is an instruction of the processor, however many words there are. -/
theorem wellFormed_of_decode {x : Extensions} {ws : List DWord} {i : Instr} (h : decode x ws = .ok i) : i.WellFormed x := by
  cases ws with
  | nil => cases h
  | cons w rest =>
    cases rest with
    | nil => exact (decodedWordSelectsItsRow x w 0#32 i (decode_of_decode_singleton h _)).1
    | cons w' later => exact (decodedWordSelectsItsRow x w w' i h).1

/-- Settles O26: an entry and the effect of every instruction of the processor keep the invariant. -/
theorem stepKeepsWellFormed : Obligations.StepKeepsWellFormed := by
  intro s t hs h
  cases hc : (consult s).1 with
  | some n =>
    obtain ⟨q, hq⟩ := consult_awaiting s
    rw [step_of_interrupt hc, hq] at h
    obtain ⟨v, -, rfl⟩ := raiseInterrupt_next h
    exact ((hs.awaiting q).present _).enter _ _
  | none =>
    obtain ⟨q, i, hfetch, hexec⟩ := step_exec h hc
    obtain ⟨ws, hdec⟩ := fetch_ok hfetch
    exact (exec_effectOf hexec).wellFormed ((hs.awaiting q).present _) (wellFormed_of_decode hdec)

/-! Reset. -/

/-- Settles O27: with every extension present only the memory clause speaks, of a memory with nothing listed. -/
theorem resetIsWellFormed : Obligations.ResetIsWellFormed :=
  ⟨Memory.wf_nil, nofun, nofun, nofun, nofun, nofun⟩

/-- Settles O29, by evaluating the reset state. -/
theorem resetState : Obligations.ResetState := by
  unfold Obligations.ResetState
  decide

theorem State.afterReset_regs (s : State) (start : Addr) (k : Fin 29) :
    (s.afterReset start).regs[k] = s.clip (Config.resetRegister s.draws k.val) := by
  simp [State.afterReset]

theorem State.afterReset_mc (s : State) (start : Addr) :
    (s.afterReset start).mc = if s.cfg.ext.m then s.clip (Config.resetMc s.draws) else 0#64 := by
  simp only [State.afterReset]

/-- The state after the reset event is well-formed where its memory is: what is drawn is clipped, and MC drawn where it exists. -/
theorem afterReset_wellFormed {s : State} (h : s.mem.wf) (start : Addr) : (s.afterReset start).WellFormed where
  memory := by rwa [State.afterReset_mem]
  registers hq k := by
    rw [State.afterReset_cfg] at hq
    rw [State.afterReset_regs]
    exact clip_lt hq _
  carry hq := by
    rw [State.afterReset_cfg] at hq
    rw [State.afterReset_mc]
    split
    · exact clip_lt hq _
    · decide
  noQwm _ := State.afterReset_qwm s start
  noFpm _ := State.afterReset_fpm s start
  noMc hm := by
    rw [State.afterReset_cfg] at hm
    rw [State.afterReset_mc, hm]; rfl

/-! The end of a run (R330). -/

/-- Where no interrupt comes the step is an uninterrupted one, and after its check none comes either. -/
theorem step_of_noInterruptComes {s : State} (h : noInterruptComes s) :
    ∃ q, step s = outcomeAwaiting q (stepUninterrupted s) ∧ (s.sr.ie = false ∨ ∀ answer ∈ q, answer = none) := by
  rcases consult_cases s with ⟨hie, hc⟩ | ⟨-, hreq, hc⟩ | ⟨hie, answer, later, hreq, hc⟩
  · exact ⟨s.requests, (step_of_no_interrupt hc).trans (stepUninterrupted_awaiting s.requests s), .inl hie⟩
  · exact ⟨s.requests, (step_of_no_interrupt hc).trans (stepUninterrupted_awaiting s.requests s), .inr (by simp [hreq])⟩
  · rcases h with h | h
    · cases hie.symm.trans h
    · rw [hreq] at h
      have hnone : answer = none := h answer (by simp)
      subst hnone
      exact ⟨later, (step_of_no_interrupt hc).trans (stepUninterrupted_awaiting later s),
        .inr fun a ha => h a (List.mem_cons_of_mem _ ha)⟩

/-- An outcome with other answers is a next state exactly where it is one. -/
theorem outcomeAwaiting_next {q : List (Option VectorNum)} {o : Host.Outcome State Fault Refusal} {t : State}
    (h : outcomeAwaiting q o = .next t) : ∃ u, o = .next u ∧ t = u.awaiting q := by
  cases o with
  | next u => exact ⟨u, rfl, (next_inj h).symm⟩
  | fault f => cases f
  | refused r => cases h

/-- The word of the self-jump is the code of `JMP EPC, 0` on every processor (R329). -/
theorem decode_selfJump (x : Extensions) (w' : DWord) : decode x [0x27C00000#32, w'] = .ok (.jmp 31#5 0) :=
  decodeOfEncode x (.jmp 31#5 0) [w'] rfl

/-- The self-jump goes to the pc where EPC reads the pc (R29). -/
theorem jumpTarget_selfJump {s : State} (h : s.cfg.epcOffset = .zero) : s.jumpTarget 31#5 (0 : BitVec 15) = s.pc := by
  rw [State.jumpTarget, show s.readReg 31#5 = (s.pc + epcOffsetValue s.cfg.epcOffset).setWidth 64 from rfl, h]
  simp [epcOffsetValue]

/-- Only MUL, MLC, DIV and MOD draw free values, and they advance the pc. -/
theorem EffectOf.draws_eq_or_advances {i : Instr} {s t : State} (h : EffectOf i s t) :
    t.draws = s.draws ∨ t.pc = s.pc + i.length := by
  cases h with
  | multiply | divide => exact .inr (by simp)
  | alu | float | move | load | store | jump | set | clear | enter | leave => exact .inl (by simp)

/-- No instruction has length 0 modulo 2^32. -/
theorem pc_add_length_ne (a : Addr) (i : Instr) : a + i.length ≠ a := by
  unfold Instr.length
  split <;> bv_omega

/-- An uninterrupted step that stays at its pc draws no free value. -/
theorem stepUninterrupted_draws {s t : State} (h : stepUninterrupted s = .next t) (hpc : t.pc = s.pc) : t.draws = s.draws := by
  obtain ⟨i, -, hexec⟩ := orRefuse_next h
  rcases (exec_effectOf hexec).draws_eq_or_advances with hdraws | hadv
  · exact hdraws
  · exact absurd (hadv.symm.trans hpc) (pc_add_length_ne s.pc i)

/-- A fixed point with the parameters, transfers and drawings of before differs in the answers to come alone. -/
theorem eq_awaiting_of_atFixedPoint {s t : State} (h : atFixedPoint s t) (hcfg : t.cfg = s.cfg)
    (hpres : t.presented = s.presented) (hdraws : t.draws = s.draws) : t = s.awaiting t.requests := by
  obtain ⟨hpc, hregs, hsr, hmc, hmem⟩ := h
  cases s; cases t
  simp only at hpc hregs hsr hmc hmem hcfg hpres hdraws
  subst hpc hregs hsr hmc hmem hcfg hpres hdraws
  rfl

/-- The self-jump is the end of a run. -/
theorem atEnd_selfJump {s : State} (hno : noInterruptComes s) (hf : fetchAllowed s s.pc) (he : s.cfg.epcOffset = .zero)
    (hw : wordAt s s.pc = 0x27C00000#32) : AtEnd s := by
  obtain ⟨q, hstep, -⟩ := step_of_noInterruptComes hno
  have hrun := stepUninterrupted_of_decode hf (hw ▸ decode_selfJump s.cfg.ext (wordAt s (s.pc + 4#32)))
  rw [hrun] at hstep
  refine ⟨hno, _, hstep, ?_, rfl, rfl, rfl, rfl⟩
  exact jumpTarget_selfJump (s := s.fetched _) he

/-- The state after an end of a run differs in the answers to come alone, so the step from it is the same step. -/
theorem atEnd_of_step {s t : State} (h : AtEnd s) (hstep : step s = .next t) (hpres : t.presented = s.presented) :
    AtEnd t ∧ atFixedPoint s t := by
  obtain ⟨hno, t', hstep', hfix⟩ := h
  obtain rfl : t' = t := next_inj (hstep'.symm.trans hstep)
  refine ⟨?_, hfix⟩
  obtain ⟨q, hq, hnone⟩ := step_of_noInterruptComes hno
  obtain ⟨u, hu, rfl⟩ := outcomeAwaiting_next (hq.symm.trans hstep)
  have hdraws : u.draws = s.draws := stepUninterrupted_draws hu hfix.1
  have heq : u.awaiting q = s.awaiting q := eq_awaiting_of_atFixedPoint hfix (step_cfg hstep) hpres hdraws
  have hno' : noInterruptComes (u.awaiting q) := by rw [heq]; exact hnone
  obtain ⟨q', hq', -⟩ := step_of_noInterruptComes hno'
  refine ⟨hno', (u.awaiting q).awaiting q', ?_, rfl, rfl, rfl, rfl, rfl⟩
  rw [hq', heq, stepUninterrupted_awaiting, hu]
  exact congrArg (outcomeAwaiting q') (congrArg Host.Outcome.next heq)

/-- Settles O60: the self-jump is an end, and the step from the state after an end is the step before. -/
theorem endOfRun : Obligations.EndOfRun :=
  ⟨fun _ => atEnd_selfJump, fun _ _ => atEnd_of_step⟩

end Sys2Proof.Machine

namespace Sys2Proof

/-- Settles O30: the event reads the reset vector with VM = 0 and draws the rest. -/
theorem resetEvent : Obligations.ResetEvent := by
  intro s h
  exact ⟨_, Machine.resetEvent_of_allowed h, by simp, by simp, by simp, by simp, by simp, by simp, by simp, by simp, by simp,
    by simp [Machine.presents], fun hmem => Machine.afterReset_wellFormed (s := s.present _) hmem _⟩

end Sys2Proof
